-- ==== Sys2Proof/Word.lean ====
section
/-! DEFINITION. The word types of EPDC: the widths that the spec fixes, and the result codes. -/

namespace Sys2Proof

/-- A byte of the Frame Store buffer or of the bus (20_memory R63, R74). -/
abbrev Byte := BitVec 8

/-- A 16-bit host operand or dimension register (00_scope R9). -/
abbrev Half := BitVec 16

/-- A data word of the host port (30_encoding R90). -/
abbrev DataWord := BitVec 32

/-- A request word of the host port (30_encoding R91). -/
abbrev RequestWord := BitVec 48

/-- A result code. Four bits, so that the values 10 to 15, which the environment may answer
although they are no result codes, are carried unchanged (30_encoding R95, 60_exceptions R306). -/
abbrev Code := BitVec 4

/-- A register address of the host port (10_state R26). -/
abbrev RegAddr := BitVec 4

namespace Code

/-- The ten result codes, numbered as 30_encoding R95 numbers them. -/
def ok : Code := 0
def notAvailable : Code := 1
def timedOut : Code := 2
def badPermissions : Code := 3
def outOfMemory : Code := 4
def outOfRange : Code := 5
def notConfigured : Code := 6
def nullPointer : Code := 7
def failure : Code := 8
def commFailure : Code := 9

end Code

end Sys2Proof
end

