-- ==== Sys2Proof/Syntax.lean ====
section
/-! DEFINITION. The instructions of EPDC: one constructor for each row of spec/opcode_table.json, and the names
their operands are made of. An instruction is a host operation or a panel command (INDEX.md). -/

namespace Sys2Proof

/-- The logical colour operand of SET_PIXEL (30_encoding R96). -/
inductive Colour where
  | white
  | black
  | red
  | yellow
deriving DecidableEq, Repr

/-- A frame type or update mode (10_state R29, 30_encoding R97). -/
inductive FrameType where
  | alwaysFull
  | diff
  | overlay
  | reserved
deriving DecidableEq, Repr

/-- The instructions. A panel command has no operand: its payload is made from the state
(30_encoding R101), the row `r` being the sequencer's. -/
inductive Instr where
  | setup
  | teardown
  | allocate
  | fsAttach
  | setPixel (x y : Half) (colour : Colour)
  | update
  | updateByMode (mode : FrameType)
  | clear
  | csrRead (reg : RegAddr)
  | csrWrite (reg : RegAddr) (value : DataWord)
  | fsRd (addr : Half)
  | fsWr (addr : Half) (byte : Byte)
  | reserved0
  | reservedD
  | reservedE
  | reservedF
  | pSwReset
  | pAnalogBlock
  | pDigitalBlock
  | pGateSetting
  | pGateVoltage
  | pSourceVoltage
  | pDummyLine
  | pGateLineWidth
  | pDataEntryMode
  | pVcom
  | pBorder1
  | pBorder2
  | pSourceOverride
  | pSetLut
  | pRamXRange
  | pRamYRange
  | pRamXPtr
  | pRamYPtr
  | pWriteBw
  | pWriteColor
  | pUpdateSeq
  | pTrigger
  | pDeepSleep
deriving DecidableEq, Repr

/-- The panel commands alone, as the sequencer's lists name them (30_encoding R101). -/
inductive PanelCmd where
  | swReset
  | analogBlock
  | digitalBlock
  | gateSetting
  | gateVoltage
  | sourceVoltage
  | dummyLine
  | gateLineWidth
  | dataEntryMode
  | vcom
  | border1
  | border2
  | sourceOverride
  | setLut
  | ramXRange
  | ramYRange
  | ramXPtr
  | ramYPtr
  | writeBw
  | writeColor
  | updateSeq
  | trigger
  | deepSleep
deriving DecidableEq, Repr

/-- The instruction a panel command is. -/
def PanelCmd.instr : PanelCmd → Instr
  | .swReset => .pSwReset
  | .analogBlock => .pAnalogBlock
  | .digitalBlock => .pDigitalBlock
  | .gateSetting => .pGateSetting
  | .gateVoltage => .pGateVoltage
  | .sourceVoltage => .pSourceVoltage
  | .dummyLine => .pDummyLine
  | .gateLineWidth => .pGateLineWidth
  | .dataEntryMode => .pDataEntryMode
  | .vcom => .pVcom
  | .border1 => .pBorder1
  | .border2 => .pBorder2
  | .sourceOverride => .pSourceOverride
  | .setLut => .pSetLut
  | .ramXRange => .pRamXRange
  | .ramYRange => .pRamYRange
  | .ramXPtr => .pRamXPtr
  | .ramYPtr => .pRamYPtr
  | .writeBw => .pWriteBw
  | .writeColor => .pWriteColor
  | .updateSeq => .pUpdateSeq
  | .trigger => .pTrigger
  | .deepSleep => .pDeepSleep

/-- The panel command an instruction is; `none` for a host operation. -/
def Instr.panelCmd? : Instr → Option PanelCmd
  | .pSwReset => some .swReset
  | .pAnalogBlock => some .analogBlock
  | .pDigitalBlock => some .digitalBlock
  | .pGateSetting => some .gateSetting
  | .pGateVoltage => some .gateVoltage
  | .pSourceVoltage => some .sourceVoltage
  | .pDummyLine => some .dummyLine
  | .pGateLineWidth => some .gateLineWidth
  | .pDataEntryMode => some .dataEntryMode
  | .pVcom => some .vcom
  | .pBorder1 => some .border1
  | .pBorder2 => some .border2
  | .pSourceOverride => some .sourceOverride
  | .pSetLut => some .setLut
  | .pRamXRange => some .ramXRange
  | .pRamYRange => some .ramYRange
  | .pRamXPtr => some .ramXPtr
  | .pRamYPtr => some .ramYPtr
  | .pWriteBw => some .writeBw
  | .pWriteColor => some .writeColor
  | .pUpdateSeq => some .updateSeq
  | .pTrigger => some .trigger
  | .pDeepSleep => some .deepSleep
  | .setup | .teardown | .allocate | .fsAttach | .setPixel _ _ _ | .update | .updateByMode _ | .clear
  | .csrRead _ | .csrWrite _ _ | .fsRd _ | .fsWr _ _ | .reserved0 | .reservedD | .reservedE | .reservedF => none

/-- The 22 panel command identifiers by name (00_scope R11). P_SOURCE_OVERRIDE has none of its own: it is
the command of P_SOURCE_VOLTAGE sent again (30_encoding R101). -/
inductive CommandId where
  | swReset
  | analogBlock
  | digitalBlock
  | gateSetting
  | gateVoltage
  | sourceVoltage
  | dummyLine
  | gateLineWidth
  | dataEntryMode
  | vcom
  | border1
  | border2
  | setLut
  | ramXRange
  | ramYRange
  | ramXPtr
  | ramYPtr
  | writeBw
  | writeColor
  | updateSeq
  | trigger
  | deepSleep
deriving DecidableEq, Repr

end Sys2Proof
end

