-- ==== Sys2Proof/Config.lean ====
section
/-! DEFINITION. The configuration of EPDC (00_scope R10 to R13): the parameters the spec leaves open, as one opaque
constant, the parameters the spec decides, as definitions, and the free values. -/

namespace Sys2Proof.Config

/-- A non-empty byte string: every fixed payload and LUT has at least one byte (00_scope R12, R13). -/
structure Bytes1 where
  head : Byte
  tail : List Byte
deriving DecidableEq, Repr, Inhabited

/-- The bytes of a non-empty string, in bus order. -/
def Bytes1.toList (b : Bytes1) : List Byte := b.head :: b.tail

/-- The parameters whose status is OPEN in 00_scope R10: identifiers (R11), fixed payloads (R12), waveform
tables (R13) and times. `argUpdateSeq` and `argDeepSleep` are exactly one byte (R12). -/
structure OpenParams where
  cmdSwReset : Byte
  cmdAnalogBlock : Byte
  cmdDigitalBlock : Byte
  cmdGateSetting : Byte
  cmdGateVoltage : Byte
  cmdSourceVoltage : Byte
  cmdDummyLine : Byte
  cmdGateLineWidth : Byte
  cmdDataEntryMode : Byte
  cmdVcom : Byte
  cmdBorder1 : Byte
  cmdBorder2 : Byte
  cmdSetLut : Byte
  cmdRamXRange : Byte
  cmdRamYRange : Byte
  cmdRamXPtr : Byte
  cmdRamYPtr : Byte
  cmdWriteBw : Byte
  cmdWriteColor : Byte
  cmdUpdateSeq : Byte
  cmdTrigger : Byte
  cmdDeepSleep : Byte
  argAnalogBlock : Bytes1
  argDigitalBlock : Bytes1
  argGateVoltage : Bytes1
  argSourceVoltage : Bytes1
  argDummyLine : Bytes1
  argGateLineWidth : Bytes1
  argDataEntryMode : Bytes1
  argVcom : Bytes1
  argBorder1 : Bytes1
  argBorder2 : Bytes1
  argSourceOverrideYellow : Bytes1
  argSourceOverrideRed : Bytes1
  argUpdateSeq : Byte
  argDeepSleep : Byte
  lutYellow : Bytes1
  lutRed : Bytes1
  lutBw : Bytes1
  tResetUs : Nat
  tTriggerUs : Nat
  tBusyTimeout : Nat
deriving DecidableEq, Repr, Inhabited

/-- The open parameters of this EPDC. Free: nothing can be proved of their values (entry 8). -/
opaque panel : OpenParams

/-- The test instantiation T0 (00_scope R10 to R13). PRESUMED: the spec has these values from general knowledge
and they bind nothing; used only to number the panel rows of spec/opcode_table.json (entry 9). -/
def t0 : OpenParams where
  cmdSwReset := 0x12
  cmdAnalogBlock := 0x74
  cmdDigitalBlock := 0x7E
  cmdGateSetting := 0x01
  cmdGateVoltage := 0x03
  cmdSourceVoltage := 0x04
  cmdDummyLine := 0x3A
  cmdGateLineWidth := 0x3B
  cmdDataEntryMode := 0x11
  cmdVcom := 0x2C
  cmdBorder1 := 0x3C
  cmdBorder2 := 0x3C
  cmdSetLut := 0x32
  cmdRamXRange := 0x44
  cmdRamYRange := 0x45
  cmdRamXPtr := 0x4E
  cmdRamYPtr := 0x4F
  cmdWriteBw := 0x24
  cmdWriteColor := 0x26
  cmdUpdateSeq := 0x22
  cmdTrigger := 0x20
  cmdDeepSleep := 0x10
  argAnalogBlock := ⟨0x54, []⟩
  argDigitalBlock := ⟨0x3B, []⟩
  argGateVoltage := ⟨0x17, []⟩
  argSourceVoltage := ⟨0x41, [0xAC, 0x32]⟩
  argDummyLine := ⟨0x07, []⟩
  argGateLineWidth := ⟨0x04, []⟩
  argDataEntryMode := ⟨0x03, []⟩
  argVcom := ⟨0x3C, []⟩
  argBorder1 := ⟨0x00, []⟩
  argBorder2 := ⟨0x31, []⟩
  argSourceOverrideYellow := ⟨0x07, [0xAC, 0x32]⟩
  argSourceOverrideRed := ⟨0x30, [0xAC, 0x22]⟩
  argUpdateSeq := 0xC7
  argDeepSleep := 0x01
  lutYellow := ⟨0xE0, []⟩
  lutRed := ⟨0xA0, [0xA1, 0xA2]⟩
  lutBw := ⟨0xB0, [0xB1]⟩
  tResetUs := 100000
  tTriggerUs := 50000
  tBusyTimeout := 30000000

/-- PAIR_SHIFT, decided 2 by the spec (00_scope R10, 30_encoding R104, D10). -/
abbrev pairShift : Nat := 2

/-- ROW_MSB_FIRST, decided true by the spec (00_scope R10, 20_memory R70, D12). -/
abbrev rowMsbFirst : Bool := true

/-- FS_CAPACITY, decided 65535 by the spec (00_scope R10, 41_frame_store R157, D34). -/
abbrev fsCapacity : Nat := 65535

/-- PTR_BITS, decided 32 by the spec (00_scope R10, D35). -/
abbrev ptrBits : Nat := 32

/-- ARG_GATE_TAIL, decided empty by the spec (00_scope R10, 30_encoding R109, D21). -/
abbrev argGateTail : List Byte := []

/-- The byte at an address of the buffer that no operation has written since the buffer last became
unspecified: a free value. The first argument counts the times it has become unspecified (10_state R42,
41_frame_store R156; entry 2). -/
opaque freeByte : Nat → Nat → Byte

/-- What FS_RD finds at an address beyond the bytes of a Frame Store: a free value (45_session_and_host_port R282;
entry 2). The first argument is that of `freeByte`. -/
opaque freeOutside : Nat → Nat → Byte

end Sys2Proof.Config
end

