-- ==== Sys2Proof/WellFormed.lean ====
section
/-! DEFINITION. Well-formedness. Every value of `Instr` is legal to send: colours, modes and register addresses
have no illegal value (30_encoding R96, R97, R98), so the checks are on the request WORD: which fields an
operation ignores, and that the host writes 0 there (30_encoding R91). The core never makes these checks. -/

namespace Sys2Proof

/-- The fields of a request word that an operation reads (30_encoding R91), by op code: how many low bits of
`sub`, of `y` and of `x`. A reserved op reads none. -/
def fieldsRead (op : BitVec 4) : Nat × Nat × Nat :=
  if op = 0x5 then (2, 16, 16)
  else if op = 0x7 then (2, 0, 0)
  else if op = 0x9 then (4, 0, 0)
  else if op = 0xA then (4, 16, 16)
  else if op = 0xB then (0, 0, 16)
  else if op = 0xC then (0, 8, 16)
  else (0, 0, 0)

/-- A request word whose reserved byte is 0, as the host should write it (30_encoding R91). -/
def rsvIsZero (w : RequestWord) : Bool := w.extractLsb' 32 8 = 0

/-- A request word whose `sub` is 0 in the bits its operation ignores. -/
def subIsClean (w : RequestWord) : Bool :=
  (w.extractLsb' 40 4).toNat < 2 ^ (fieldsRead (w.extractLsb' 44 4)).1

/-- A request word whose `y` is 0 in the bits its operation ignores. -/
def yIsClean (w : RequestWord) : Bool :=
  (w.extractLsb' 16 16).toNat < 2 ^ (fieldsRead (w.extractLsb' 44 4)).2.1

/-- A request word whose `x` is 0 in the bits its operation ignores. -/
def xIsClean (w : RequestWord) : Bool :=
  (w.extractLsb' 0 16).toNat < 2 ^ (fieldsRead (w.extractLsb' 44 4)).2.2

/-- A well-formed request word: every ignored bit is 0. Each operation has exactly one such word. -/
def wellFormedRequest (w : RequestWord) : Bool :=
  rsvIsZero w && subIsClean w && yIsClean w && xIsClean w

end Sys2Proof
end

