-- ==== Sys2Proof/Decode.lean ====
section
/-! DEFINITION. Decoding and encoding. A host operation is a 48-bit request word (30_encoding R91, R92), a panel
command the identifier byte of its first bus write (30_encoding R99, R101), read under a table of the open
identifiers. Decoding is total; the one thing it rejects is a byte that is no identifier, by name. -/

namespace Sys2Proof

/-- The colour that `sub[1:0]` of SET_PIXEL names (30_encoding R96). -/
def Colour.ofBits (b : BitVec 2) : Colour :=
  if b = 0 then .white else if b = 1 then .black else if b = 2 then .red else .yellow

/-- The operand bits of a colour (30_encoding R96). -/
def Colour.bits : Colour → BitVec 2
  | .white => 0
  | .black => 1
  | .red => 2
  | .yellow => 3

/-- The frame type that two bits name (10_state R29, 30_encoding R97). -/
def FrameType.ofBits (b : BitVec 2) : FrameType :=
  if b = 0 then .alwaysFull else if b = 1 then .diff else if b = 2 then .overlay else .reserved

/-- The two bits of a frame type (10_state R29). -/
def FrameType.bits : FrameType → BitVec 2
  | .alwaysFull => 0
  | .diff => 1
  | .overlay => 2
  | .reserved => 3

/-- Fields of a request word (30_encoding R91). -/
def RequestWord.op (w : RequestWord) : BitVec 4 := w.extractLsb' 44 4
def RequestWord.sub (w : RequestWord) : BitVec 4 := w.extractLsb' 40 4
def RequestWord.y (w : RequestWord) : Half := w.extractLsb' 16 16
def RequestWord.x (w : RequestWord) : Half := w.extractLsb' 0 16

/-- The host operation that a request word asks for (30_encoding R91, R92). Fields an operation ignores are not
looked at; a reserved op decodes to its row (R98). -/
def decodeRequest (w : RequestWord) : Instr :=
  let op := RequestWord.op w
  let sub := RequestWord.sub w
  let y := RequestWord.y w
  let x := RequestWord.x w
  if op = 0x0 then .reserved0
  else if op = 0x1 then .setup
  else if op = 0x2 then .teardown
  else if op = 0x3 then .allocate
  else if op = 0x4 then .fsAttach
  else if op = 0x5 then .setPixel x y (Colour.ofBits (sub.extractLsb' 0 2))
  else if op = 0x6 then .update
  else if op = 0x7 then .updateByMode (FrameType.ofBits (sub.extractLsb' 0 2))
  else if op = 0x8 then .clear
  else if op = 0x9 then .csrRead sub
  else if op = 0xA then .csrWrite sub (y ++ x)
  else if op = 0xB then .fsRd x
  else if op = 0xC then .fsWr x (y.extractLsb' 0 8)
  else if op = 0xD then .reservedD
  else if op = 0xE then .reservedE
  else .reservedF

/-- The byte of a panel command identifier under a table of the open parameters (00_scope R11). -/
def identifier (p : Config.OpenParams) : CommandId → Byte
  | .swReset => p.cmdSwReset
  | .analogBlock => p.cmdAnalogBlock
  | .digitalBlock => p.cmdDigitalBlock
  | .gateSetting => p.cmdGateSetting
  | .gateVoltage => p.cmdGateVoltage
  | .sourceVoltage => p.cmdSourceVoltage
  | .dummyLine => p.cmdDummyLine
  | .gateLineWidth => p.cmdGateLineWidth
  | .dataEntryMode => p.cmdDataEntryMode
  | .vcom => p.cmdVcom
  | .border1 => p.cmdBorder1
  | .border2 => p.cmdBorder2
  | .setLut => p.cmdSetLut
  | .ramXRange => p.cmdRamXRange
  | .ramYRange => p.cmdRamYRange
  | .ramXPtr => p.cmdRamXPtr
  | .ramYPtr => p.cmdRamYPtr
  | .writeBw => p.cmdWriteBw
  | .writeColor => p.cmdWriteColor
  | .updateSeq => p.cmdUpdateSeq
  | .trigger => p.cmdTrigger
  | .deepSleep => p.cmdDeepSleep

/-- The identifiers in the order of 00_scope R11, in which a byte is looked up. -/
def commandIds : List CommandId :=
  [.swReset, .analogBlock, .digitalBlock, .gateSetting, .gateVoltage, .sourceVoltage, .dummyLine, .gateLineWidth,
   .dataEntryMode, .vcom, .border1, .border2, .setLut, .ramXRange, .ramYRange, .ramXPtr, .ramYPtr, .writeBw,
   .writeColor, .updateSeq, .trigger, .deepSleep]

/-- The instruction that sends a command identifier (30_encoding R101); for CMD_SOURCE_VOLTAGE the first of the
two that do. -/
def CommandId.instr : CommandId → Instr
  | .swReset => .pSwReset
  | .analogBlock => .pAnalogBlock
  | .digitalBlock => .pDigitalBlock
  | .gateSetting => .pGateSetting
  | .gateVoltage => .pGateVoltage
  | .sourceVoltage => .pSourceVoltage
  | .dummyLine => .pDummyLine
  | .gateLineWidth => .pGateLineWidth
  | .dataEntryMode => .pDataEntryMode
  | .vcom => .pVcom
  | .border1 => .pBorder1
  | .border2 => .pBorder2
  | .setLut => .pSetLut
  | .ramXRange => .pRamXRange
  | .ramYRange => .pRamYRange
  | .ramXPtr => .pRamXPtr
  | .ramYPtr => .pRamYPtr
  | .writeBw => .pWriteBw
  | .writeColor => .pWriteColor
  | .updateSeq => .pUpdateSeq
  | .trigger => .pTrigger
  | .deepSleep => .pDeepSleep

/-- An encoded instruction: a request word of the host side or the identifier byte of the wire side. -/
inductive Encoded where
  | request (w : RequestWord)
  | command (b : Byte)
deriving DecidableEq, Repr

/-- Why a decoding fails. -/
inductive DecodeError where
  /-- The byte is none of the identifiers of the table. -/
  | unknownCommand (b : Byte)
deriving DecidableEq, Repr

/-- The first identifier of a list that has the given byte. -/
def findIdentifier (p : Config.OpenParams) (b : Byte) : List CommandId → Option CommandId
  | [] => none
  | id :: ids => if identifier p id = b then some id else findIdentifier p b ids

/-- The decoder. -/
def decode (p : Config.OpenParams) : Encoded → Except DecodeError Instr
  | .request w => .ok (decodeRequest w)
  | .command b =>
    match findIdentifier p b commandIds with
    | some id => .ok id.instr
    | none => .error (.unknownCommand b)

/-- Format H with the reserved byte 0 (30_encoding R91). -/
def requestWord (op sub : BitVec 4) (y x : Half) : RequestWord := op ++ sub ++ (0#8 ++ (y ++ x))

/-- The word or identifier byte of an instruction, written from 30_encoding R91, R92 and R101; every ignored
field is 0. -/
def encode (p : Config.OpenParams) : Instr → Encoded
  | .reserved0 => .request (requestWord 0x0 0 0 0)
  | .setup => .request (requestWord 0x1 0 0 0)
  | .teardown => .request (requestWord 0x2 0 0 0)
  | .allocate => .request (requestWord 0x3 0 0 0)
  | .fsAttach => .request (requestWord 0x4 0 0 0)
  | .setPixel x y c => .request (requestWord 0x5 (0#2 ++ c.bits) y x)
  | .update => .request (requestWord 0x6 0 0 0)
  | .updateByMode m => .request (requestWord 0x7 (0#2 ++ m.bits) 0 0)
  | .clear => .request (requestWord 0x8 0 0 0)
  | .csrRead reg => .request (requestWord 0x9 reg 0 0)
  | .csrWrite reg v => .request (requestWord 0xA reg (v.extractLsb' 16 16) (v.extractLsb' 0 16))
  | .fsRd a => .request (requestWord 0xB 0 0 a)
  | .fsWr a b => .request (requestWord 0xC 0 (0#8 ++ b) a)
  | .reservedD => .request (requestWord 0xD 0 0 0)
  | .reservedE => .request (requestWord 0xE 0 0 0)
  | .reservedF => .request (requestWord 0xF 0 0 0)
  | .pSwReset => .command (identifier p .swReset)
  | .pAnalogBlock => .command (identifier p .analogBlock)
  | .pDigitalBlock => .command (identifier p .digitalBlock)
  | .pGateSetting => .command (identifier p .gateSetting)
  | .pGateVoltage => .command (identifier p .gateVoltage)
  | .pSourceVoltage => .command (identifier p .sourceVoltage)
  | .pDummyLine => .command (identifier p .dummyLine)
  | .pGateLineWidth => .command (identifier p .gateLineWidth)
  | .pDataEntryMode => .command (identifier p .dataEntryMode)
  | .pVcom => .command (identifier p .vcom)
  | .pBorder1 => .command (identifier p .border1)
  | .pBorder2 => .command (identifier p .border2)
  | .pSourceOverride => .command (identifier p .sourceVoltage)
  | .pSetLut => .command (identifier p .setLut)
  | .pRamXRange => .command (identifier p .ramXRange)
  | .pRamYRange => .command (identifier p .ramYRange)
  | .pRamXPtr => .command (identifier p .ramXPtr)
  | .pRamYPtr => .command (identifier p .ramYPtr)
  | .pWriteBw => .command (identifier p .writeBw)
  | .pWriteColor => .command (identifier p .writeColor)
  | .pUpdateSeq => .command (identifier p .updateSeq)
  | .pTrigger => .command (identifier p .trigger)
  | .pDeepSleep => .command (identifier p .deepSleep)

/-- The word that spec/opcode_table.json gives a row, as an encoded instruction: a row of at most 8 bits is a
panel identifier, a wider one a request word. -/
def tableWord (nbits w : Nat) : Option Encoded :=
  if nbits ≤ 8 then (if w < 256 then some (.command (BitVec.ofNat 8 w)) else none)
  else if nbits ≤ 48 ∧ w < 2 ^ 48 then some (.request (BitVec.ofNat 48 w))
  else none

/-- The instruction the decoder reads from a word of spec/opcode_table.json. The table numbers its panel rows
by the T0 identifiers, so they are read under T0 (entry 9). -/
def decodeTableWord (nbits w : Nat) : Option Instr :=
  match tableWord nbits w with
  | none => none
  | some e =>
    match decode Config.t0 e with
    | .ok i => some i
    | .error _ => none

end Sys2Proof
end

