-- ==== Sys2Proof/Machine/State.lean ====
section
/-! DEFINITION. The state of EPDC as plain data (10_state), the state after block reset (R42), and the reasons a
step can stop. -/

namespace Sys2Proof.Machine

/-- The phases of the sequencer position (10_state R24). The last three are the spec's one LOCAL, told apart by what the
core does there: SETUP's pin configuration, ALLOCATE's zero fill, CLEAR's pixel loop (entry 20). -/
inductive Phase where
  | idle
  | reset
  | init
  | window
  | rows
  | trigger
  | sleep
  | localPins
  | localFill
  | localPixels
deriving DecidableEq, Repr

/-- The sequencer position `seq = (PHASE, ROW, K)` (10_state R24). -/
structure Seq where
  phase : Phase
  row : Half
  k : Nat
deriving DecidableEq, Repr

/-- The position between operations, `(IDLE, 0, 0)`. -/
abbrev Seq.idle : Seq := ⟨.idle, 0, 0⟩

/-- The ghost field PSTATE (10_state R33). -/
inductive PState where
  | untouched
  | awake
  | asleep
  | indeterminate
deriving DecidableEq, Repr

/-- The request latch (10_state R22). -/
structure Latch where
  op : BitVec 4
  sub : BitVec 4
  x : Half
  y : Half
deriving DecidableEq, Repr

/-- What the host gets back from an operation: a result code and a data word (10_state R23, 30_encoding R90). -/
structure Response where
  code : Code
  data : DataWord
deriving DecidableEq, Repr

/-- Pins by logical role (30_encoding R112). -/
inductive Pin where
  | reset
  | busy
  | dc
  | cs
  | mosi
  | sclk
deriving DecidableEq, Repr

/-- Pin direction (30_encoding R112). -/
inductive Direction where
  | input
  | output
deriving DecidableEq, Repr

/-- Pin level or initial state (30_encoding R112). -/
inductive Level where
  | low
  | high
deriving DecidableEq, Repr

/-- Pull mode (30_encoding R112). -/
inductive Pull where
  | none
  | up
  | down
deriving DecidableEq, Repr

/-- The eight capability calls (60_exceptions R305). `gpioRead` has no caller (R308). -/
inductive Call where
  | gpioInit
  | gpioConfigure (pin : Pin) (direction : Direction) (initial : Level) (pull : Pull)
  | gpioWrite (pin : Pin) (level : Level)
  | gpioRead (pin : Pin)
  | gpioPollUntil (pin : Pin) (timeout : Nat)
  | busInit
  | busWrite (bytes : List Byte)
  | delay (us : Nat)
deriving DecidableEq, Repr

/-- One entry of the trace: a capability call and the context value it carries (00_scope R16, 10_state R32). -/
structure Event where
  call : Call
  ctx : BitVec Config.ptrBits
deriving DecidableEq, Repr

/-- The Frame Store buffer (10_state R36): the bytes that operations have written since it last became
unspecified, by rising address. A byte that is not listed has no value the spec states: reading it gives the
free value `Config.freeByte epoch address` (entry 2). -/
structure Memory where
  cells : List Host.Cell
  epoch : Nat
deriving DecidableEq, Repr

/-- The whole state. The first group is the register map of 10_state R26; STATUS is held by its fields
(`statusWord` in Flags.lean puts them together). -/
structure State where
  /-- PRODUCT (10_state R27). -/
  product : BitVec 2
  /-- COLORCAP (10_state R28): bit 0 white, 1 black, 2 red, 3 yellow. -/
  colorcap : BitVec 4
  /-- FRAMETYPE (10_state R29). -/
  frametype : BitVec 2
  /-- FS_WIDTH, FS_HEIGHT, FS_BYTELEN (10_state R30). -/
  fsWidth : Half
  fsHeight : Half
  fsBytelen : Half
  /-- USER0, USER1 (10_state R31). -/
  user0 : BitVec Config.ptrBits
  user1 : BitVec Config.ptrBits
  /-- CTX (10_state R32). -/
  ctx : BitVec Config.ptrBits
  /-- STATUS.FS_VALID, FS_EXTERNAL, ACTIVE_VALID (10_state R33). -/
  fsValid : Bool
  fsExternal : Bool
  activeValid : Bool
  /-- STATUS.PSTATE (10_state R33). -/
  pstate : PState
  /-- RESULT (10_state R34). -/
  result : Code
  /-- The sequencer position (10_state R24). -/
  seq : Seq
  /-- The request latch (10_state R22). -/
  latch : Latch
  /-- The Frame Store buffer (10_state R36). -/
  buf : Memory
  /-- The response port: `none` until an operation has ended, and again while one is in progress (entry 7). -/
  response : Option Response
  /-- A capability call has been made and not been answered (60_exceptions R307). -/
  waiting : Bool
  /-- Input: the request words the host has still to present, the next one first (entry 4). -/
  requests : List RequestWord
  /-- Input: the answers the environment will give, the next one first (60_exceptions R306; entry 3). -/
  answers : List Code
  /-- Output: the trace (00_scope R16), oldest call first (entry 6). -/
  trace : List Event
deriving DecidableEq, Repr

/-- Block reset (10_state R42, 70_reset_and_hazards R340 a). DESIGN CHOICE, unsafe: 0 for the registers and the
latch, whose reset value the spec leaves unspecified (entry 1); no request and no answer is at hand
(entries 3 and 4). -/
def State.reset : State where
  product := 0
  colorcap := 0
  frametype := 0
  fsWidth := 0
  fsHeight := 0
  fsBytelen := 0
  user0 := 0
  user1 := 0
  ctx := 0
  fsValid := false
  fsExternal := false
  activeValid := false
  pstate := .untouched
  result := Code.ok
  seq := Seq.idle
  latch := ⟨0, 0, 0, 0⟩
  buf := ⟨[], 0⟩
  response := none
  waiting := false
  requests := []
  answers := []
  trace := []

/-- Why the machine stops with a fault. EPDC has no trap (60_exceptions R300, R311): the one fault is of the
model. -/
inductive Fault where
  /-- Raised by `sequencerStep` when the sequencer position names no call of its phase, or ALLOCATE's zero fill without a
  profile to fill for. 10_state R24 and 41_frame_store R151 exclude both, so no state of a run has such a position.
  Safe. -/
  | noCallAtPosition
deriving DecidableEq, Repr

/-- Why an instruction is refused. -/
inductive Refusal where
  /-- Raised by an arm of `exec` whose instruction has no meaning yet: none at present. Safe. -/
  | notModelled (mnemonic : String)
  /-- Raised by UPDATE, CLEAR and UPDATE_BY_MODE outside the admitted dimensions, where 44_panel_sequencer R232
  gives them no meaning ("a model refuses it"), and by P_RAM_X_RANGE and P_RAM_Y_RANGE where a range would end
  below 0. Safe. -/
  | dimensionsNotAdmitted
  /-- Raised by a send whose payload would be empty, which the spec gives no meaning (42_protocol_framer R175,
  93_implementation_defined U7: refuse). Safe. -/
  | emptyPayload
deriving DecidableEq, Repr

/-- The outcome of an instruction or a step. -/
abbrev Outcome := Host.Outcome State Fault Refusal

end Sys2Proof.Machine
end

