-- ==== Sys2Proof/Machine/Ops.lean ====
section
/-! DEFINITION. The shared operations: the buffer as a memory (20_memory), ending an operation and aborting it, the
counterpart of taking an exception (60_exceptions), and the capability call (00_scope R16). -/

namespace Sys2Proof.Machine

/-! ### The buffer -/

/-- The value listed for an address. -/
def findCell : List Host.Cell → Nat → Option Byte
  | [], _ => none
  | (a', b) :: rest, a => if a' = a then some b else findCell rest a

/-- List a value for an address, keeping the addresses rising. -/
def putCell : List Host.Cell → Nat → Byte → List Host.Cell
  | [], a, b => [(a, b)]
  | (a', b') :: rest, a, b =>
    if a < a' then (a, b) :: (a', b') :: rest
    else if a = a' then (a, b) :: rest
    else (a', b') :: putCell rest a b

/-- Addresses strictly rising and at least `lo`. -/
def risingFrom (lo : Nat) : List Host.Cell → Bool
  | [] => true
  | (a, _) :: rest => decide (lo ≤ a) && risingFrom (a + 1) rest

/-- The canonical form of a buffer: addresses strictly rising, all inside the buffer RAM. -/
def Memory.wf (m : Memory) : Bool :=
  risingFrom 0 m.cells && m.cells.all fun c => decide (c.1 < Config.fsCapacity)

/-- `MemRead(a, 1)` (00_scope R15). A byte that nothing has written is a free value (entry 2). -/
def Memory.read (m : Memory) (a : Nat) : Byte :=
  match findCell m.cells a with
  | some b => b
  | none => Config.freeByte m.epoch a

/-- `MemWrite(a, 1, b)` (00_scope R15). -/
def Memory.write (m : Memory) (a : Nat) (b : Byte) : Memory := { m with cells := putCell m.cells a b }

/-- The cells of `n` zero bytes from address `lo` up. -/
def zeroCells (lo : Nat) : Nat → List Host.Cell
  | 0 => []
  | n + 1 => (lo, 0) :: zeroCells (lo + 1) n

/-- `MemWrite(a, 1, 0)` for every `a` in `0 .. n-1` (41_frame_store R151). -/
def Memory.zeroFill (m : Memory) (n : Nat) : Memory :=
  { m with cells := zeroCells 0 n ++ m.cells.filter fun c => decide (n ≤ c.1) }

/-- Every byte becomes unspecified (41_frame_store R155, R156): nothing is listed and the free values are new
ones. -/
def Memory.forget (m : Memory) : Memory := ⟨[], m.epoch + 1⟩

/-! ### Ending an operation -/

/-- The phases between the start of a Reset phase and the end of the operation: an abort there leaves the panel
in an unspecified state (60_exceptions R312). -/
def Phase.panelSide : Phase → Bool
  | .idle | .localPins | .localFill | .localPixels => false
  | .reset | .init | .window | .rows | .trigger | .sleep => true

/-- The end of an operation, with `OK` or by `raise` (45_session_and_host_port R270): RESULT and the response take
the code, `seq` goes to idle. -/
def State.finish (s : State) (code : Code) (data : DataWord) : State :=
  { s with result := code, response := some ⟨code, data⟩, seq := Seq.idle, waiting := false }

/-- TAKING AN EXCEPTION: the abort of a running operation with a non-OK code (00_scope R17, 60_exceptions R311,
R312). Nothing is saved and nothing rolled back; PSTATE becomes INDETERMINATE if the Reset phase had started.
There is no return from it (R313). -/
def State.abort (s : State) (code : Code) : State :=
  { s.finish code 0 with pstate := if s.seq.phase.panelSide then .indeterminate else s.pstate }

/-! ### Capability calls -/

/-- What became of the calls of a script: all answered OK, or stopped (aborted, or waiting for an answer). -/
inductive Progress where
  | go (s : State)
  | stop (s : State)
deriving DecidableEq, Repr

/-- The state in which the calls left the machine. -/
def Progress.state : Progress → State
  | .go s => s
  | .stop s => s

/-- Append a call to the trace with the context value it carries (00_scope R16 a, 10_state R32). -/
def State.emit (s : State) (c : Call) : State := { s with trace := s.trace ++ [⟨c, s.ctx⟩] }

/-- One answer is taken: `K <- K + 1` on OK, the abort with that very code on anything else, the values 10 to 15
included (10_state R24, 60_exceptions R306). -/
def State.answered (s : State) (a : Code) : Progress :=
  if a = Code.ok then .go { s with seq := { s.seq with k := s.seq.k + 1 } } else .stop (s.abort a)

/-- `cap(C)` (00_scope R16): the call enters the trace and the environment answers it. Where no answer is at hand
the core waits (60_exceptions R307). -/
def cap (c : Call) (s : State) : Progress :=
  match s.answers with
  | [] => .stop { s.emit c with waiting := true }
  | a :: rest => State.answered { s.emit c with answers := rest } a

/-- A list of calls in order, stopping at the first that is not answered OK (00_scope R18, 60_exceptions R311). -/
def runCalls : List Call → State → Progress
  | [], s => .go s
  | c :: cs, s =>
    match cap c s with
    | .go t => runCalls cs t
    | .stop t => .stop t

/-- The start of an operation of more than one core step: its op code is in the latch and no response is up
(entry 10). -/
def State.begin (s : State) (op : BitVec 4) : State :=
  { s with latch := { s.latch with op := op }, response := none, waiting := false }

/-- Enter a phase at its first call (10_state R24). -/
def State.enter (s : State) (ph : Phase) : State := { s with seq := ⟨ph, 0, 0⟩ }

/-- Enter the Reset phase: PSTATE becomes INDETERMINATE before its first call (44_panel_sequencer R233). -/
def State.enterReset (s : State) : State := { s.enter .reset with pstate := .indeterminate }

end Sys2Proof.Machine
end

