-- ==== Sys2Proof/Machine/Flags.lean ====
section
/-! DEFINITION. The status flags (10_state R25, R33) and the register views of the host port (R26). EPDC has no
arithmetic flags. -/

namespace Sys2Proof.Machine

/-- The number of a phase (10_state R24): LOCAL is 7, whatever the core does there. -/
def Phase.code : Phase → BitVec 3
  | .idle => 0
  | .reset => 1
  | .init => 2
  | .window => 3
  | .rows => 4
  | .trigger => 5
  | .sleep => 6
  | .localPins | .localFill | .localPixels => 7

/-- The two bits of PSTATE (10_state R33). -/
def PState.code : PState → BitVec 2
  | .untouched => 0
  | .awake => 1
  | .asleep => 2
  | .indeterminate => 3

/-- STATUS: PSTATE in bits 4:3, ACTIVE_VALID in bit 2, FS_EXTERNAL in bit 1, FS_VALID in bit 0 (10_state R33). -/
def State.statusWord (s : State) : BitVec 5 :=
  s.pstate.code ++ (BitVec.ofBool s.activeValid ++ (BitVec.ofBool s.fsExternal ++ BitVec.ofBool s.fsValid))

/-- COLORCAP flags by name (10_state R28). -/
def State.capWhite (s : State) : Bool := s.colorcap.getLsbD 0
def State.capBlack (s : State) : Bool := s.colorcap.getLsbD 1
def State.capRed (s : State) : Bool := s.colorcap.getLsbD 2
def State.capYellow (s : State) : Bool := s.colorcap.getLsbD 3

/-- The capability flag a colour needs: COLORCAP's bit of the colour operand's number (40_pixel_codec R130,
R133). -/
def State.capOf (s : State) : Colour → Bool
  | .white => s.capWhite
  | .black => s.capBlack
  | .red => s.capRed
  | .yellow => s.capYellow

/-- "any bit in the color row is set" (10_state R25, 44_panel_sequencer R250). -/
def anyNonzero (row : List Byte) : Bool := row.any fun b => b != 0

/-- `zext_32(csr[reg])` for the registers of 10_state R26; `none` for a reserved address (0xB to 0xF). -/
def State.csrValue (s : State) (reg : RegAddr) : Option DataWord :=
  if reg = 0x0 then some (s.product.setWidth 32)
  else if reg = 0x1 then some (s.colorcap.setWidth 32)
  else if reg = 0x2 then some (s.frametype.setWidth 32)
  else if reg = 0x3 then some (s.fsWidth.setWidth 32)
  else if reg = 0x4 then some (s.fsHeight.setWidth 32)
  else if reg = 0x5 then some (s.fsBytelen.setWidth 32)
  else if reg = 0x6 then some (s.user0.setWidth 32)
  else if reg = 0x7 then some (s.user1.setWidth 32)
  else if reg = 0x8 then some (s.ctx.setWidth 32)
  else if reg = 0x9 then some (s.statusWord.setWidth 32)
  else if reg = 0xA then some (s.result.setWidth 32)
  else none

/-- `csr[reg] <- value[width(reg)-1 : 0]` for the writable registers of 10_state R26; the others keep the state. -/
def State.setCsr (s : State) (reg : RegAddr) (v : DataWord) : State :=
  if reg = 0x0 then { s with product := v.setWidth 2 }
  else if reg = 0x1 then { s with colorcap := v.setWidth 4 }
  else if reg = 0x2 then { s with frametype := v.setWidth 2 }
  else if reg = 0x3 then { s with fsWidth := v.setWidth 16 }
  else if reg = 0x4 then { s with fsHeight := v.setWidth 16 }
  else if reg = 0x5 then { s with fsBytelen := v.setWidth 16 }
  else if reg = 0x6 then { s with user0 := v.setWidth Config.ptrBits }
  else if reg = 0x7 then { s with user1 := v.setWidth Config.ptrBits }
  else if reg = 0x8 then { s with ctx := v.setWidth Config.ptrBits }
  else s

end Sys2Proof.Machine
end

