-- ==== Sys2Proof/Machine/Operands.lean ====
section
/-! DEFINITION. Operand assembly: pixel addresses and codes (20_memory R62, R64, R70), pairs and payloads
(30_encoding R104 to R109), wire forms (R99). -/

namespace Sys2Proof.Machine

/-! ### Pixels -/

/-- `code_of(colour)` (40_pixel_codec R130). -/
def codeOf : Colour → BitVec 2
  | .white => 0b00
  | .black => 0b01
  | .red => 0b10
  | .yellow => 0b10

/-- The linear pixel index, in unbounded naturals (20_memory R62, R66). -/
def pixelIndex (w x y : Nat) : Nat := y * w + x

/-- `byte_of(x, y)` (20_memory R62). -/
def byteOf (w x y : Nat) : Nat := pixelIndex w x y * 2 / 8

/-- `off_of(x, y)` (20_memory R62), counted from bit 0 (R64). -/
def offOf (w x y : Nat) : Nat := pixelIndex w x y * 2 % 8

/-- `field(B, off)`: bits off+1 and off (20_memory R64). -/
def field (b : Byte) (off : Nat) : BitVec 2 := (b >>> off).setWidth 2

/-- The byte with the field at `off` replaced and the other six bits kept (40_pixel_codec R134). -/
def setField (b : Byte) (off : Nat) (code : BitVec 2) : Byte :=
  (b &&& ~~~((0b11#8) <<< off)) ||| (code.setWidth 8 <<< off)

/-- A byte of the Frame Store buffer. -/
def State.readByte (s : State) (a : Nat) : Byte := s.buf.read a

/-- `pixel_code(x, y)` (40_pixel_codec R138), which is Row Streaming's `code(x, r)` (20_memory R70). -/
def State.pixelCode (s : State) (x y : Nat) : BitVec 2 :=
  field (s.readByte (byteOf s.fsWidth.toNat x y)) (offOf s.fsWidth.toNat x y)

/-- The colour that a stored code stands for (40_pixel_codec R138, 20_memory R65): `10` is red or yellow by the
capability flag that is set, yellow first where both are (10_state R28), and no colour where neither is (entry 22);
`11` is no colour. -/
def State.colourOf (s : State) (code : BitVec 2) : Option Colour :=
  if code = 0b00 then some .white
  else if code = 0b01 then some .black
  else if code = 0b10 then
    if s.capYellow then some .yellow else if s.capRed then some .red else none
  else none

/-- The colour that the pixel at x, y shows (40_pixel_codec R138). -/
def State.pixelColour (s : State) (x y : Nat) : Option Colour := s.colourOf (s.pixelCode x y)

/-- `ceil_div(w * h * 2, 8)`, the bytes a w by h image needs (20_memory R61, 00_scope R14). -/
def bytesNeeded (w h : Nat) : Nat := (w * h * 2 + 7) / 8

/-! ### Rows -/

/-- `W8`, the bytes of one transmitted row (30_encoding R105). -/
def State.w8 (s : State) : Nat := s.fsWidth.toNat / 8

/-- `pos(i)`: the bit that pixel i of a group of 8 goes to (20_memory R70). -/
def rowBitPos (msbFirst : Bool) (i : Nat) : Nat := if msbFirst then 7 - i else i

/-- The OR over i below n of the given bits, each at its place (20_memory R70). -/
def packBits (msbFirst : Bool) (bit : Nat → Bool) : Nat → Byte
  | 0 => 0
  | i + 1 => packBits msbFirst bit i ||| (if bit i then 1#8 <<< rowBitPos msbFirst i else 0)

/-- Byte j of the row whose bits are bit `plane` of the pixel codes of row r. -/
def State.planeByte (s : State) (msbFirst : Bool) (plane r j : Nat) : Byte :=
  packBits msbFirst (fun i => (s.pixelCode (8 * j + i) r).getLsbD plane) 8

/-- The `W8` bytes of a plane's row r. -/
def State.planeRow (s : State) (msbFirst : Bool) (plane r : Nat) : List Byte :=
  (List.range s.w8).map (s.planeByte msbFirst plane r)

/-- `bw_row(r)` (20_memory R70): the low bits of the codes. -/
def State.bwRow (s : State) (r : Nat) : List Byte := s.planeRow Config.rowMsbFirst 0 r

/-- `color_row(r)` (20_memory R70): the high bits of the codes. -/
def State.colorRow (s : State) (r : Nat) : List Byte := s.planeRow Config.rowMsbFirst 1 r

/-- `color_nonzero` of row r (44_panel_sequencer R250). -/
def State.colorNonzero (s : State) (r : Nat) : Bool := anyNonzero (s.colorRow r)

/-! ### Pairs and payloads -/

/-- `pair(v)` with a given shift (30_encoding R104). -/
def pairWith (shift v : Nat) : List Byte := [BitVec.ofNat 8 (v >>> shift), BitVec.ofNat 8 v]

/-- `pair(v)` with PAIR_SHIFT (30_encoding R104). -/
def pair (v : Nat) : List Byte := pairWith Config.pairShift v

/-- The gate-setting payload (30_encoding R109). -/
def State.gatePayload (s : State) : List Byte := pair s.fsHeight.toNat ++ Config.argGateTail

/-- The X range payload (30_encoding R106). -/
def State.xRangePayload (s : State) : List Byte := [0x00, BitVec.ofNat 8 (s.w8 - 1)]

/-- The Y range payload (30_encoding R107). -/
def State.yRangePayload (s : State) : List Byte := pair 0 ++ pair (s.fsHeight.toNat - 1)

/-- The waveform table of the active colour capability: yellow, else red, else black and white
(43_register_driver R204). -/
def State.lut (s : State) : List Byte :=
  if s.capYellow then Config.panel.lutYellow.toList
  else if s.capRed then Config.panel.lutRed.toList
  else Config.panel.lutBw.toList

/-- The product is the wide-format one (10_state R27). -/
def State.isWide (s : State) : Bool := s.product = 0

/-- The payload of the source-voltage override, where one is sent (43_register_driver R202). -/
def State.sourceOverride? (s : State) : Option (List Byte) :=
  if s.capYellow then some Config.panel.argSourceOverrideYellow.toList
  else if s.capRed && s.isWide then some Config.panel.argSourceOverrideRed.toList
  else none

/-! ### Wire forms -/

/-- The two wire forms (30_encoding R99): W0, a command alone, and WP, a command with a payload. -/
inductive Wire where
  | w0 (cmd : Byte)
  | wp (cmd : Byte) (data : List Byte)
deriving DecidableEq, Repr

/-- The calls of one send (42_protocol_framer R171): the Data/Command line low before the command, high before
the payload, each transaction one bus write. -/
def Wire.calls : Wire → List Call
  | .w0 cmd => [.gpioWrite .dc .low, .busWrite [cmd]]
  | .wp cmd data => [.gpioWrite .dc .low, .busWrite [cmd], .gpioWrite .dc .high, .busWrite data]

/-! ### Admitted dimensions -/

/-- The dimensions for which UPDATE has a meaning: W8 from 1 to 256 and a height of at least 1
(44_panel_sequencer R232). -/
def State.dimensionsInRange (s : State) : Bool :=
  decide (1 ≤ s.w8) && decide (s.w8 ≤ 256) && decide (1 ≤ s.fsHeight.toNat)

end Sys2Proof.Machine
end

