-- ==== Sys2Proof/Machine/HostPort.lean ====
section
/-! DEFINITION. The acceptance of a request and the access operations of the host port (45_session_and_host_port), and the
reserved op codes (30_encoding R98). -/

namespace Sys2Proof.Machine

/-- The request latch takes a request word and the response of the operation before goes (10_state R22,
45_session_and_host_port R270). -/
def State.accept (s : State) (w : RequestWord) (rest : List RequestWord) : State :=
  { s with
    latch := ⟨RequestWord.op w, RequestWord.sub w, RequestWord.x w, RequestWord.y w⟩
    response := none
    requests := rest }

/-- CSR_READ reg (45_session_and_host_port R280). Reading RESULT gives the code of the operation before this one
(10_state R34). -/
def execCsrRead (reg : RegAddr) (s : State) : Outcome :=
  match s.csrValue reg with
  | none => .next (s.finish Code.outOfRange 0)
  | some data => .next (s.finish Code.ok data)

/-- A register the host may never write: STATUS and RESULT (10_state R26). -/
def readOnlyReg (reg : RegAddr) : Bool := reg = 0x9 || reg = 0xA

/-- A dimension register, locked while a Frame Store exists (10_state R30). -/
def dimensionReg (reg : RegAddr) : Bool := reg = 0x3 || reg = 0x4 || reg = 0x5

/-- CSR_WRITE reg, value (45_session_and_host_port R281). -/
def execCsrWrite (reg : RegAddr) (value : DataWord) (s : State) : Outcome :=
  if 0xB ≤ reg.toNat then .next (s.finish Code.outOfRange 0)
  else if readOnlyReg reg then .next (s.finish Code.badPermissions 0)
  else if dimensionReg reg && s.fsValid then .next (s.finish Code.badPermissions 0)
  else .next ((s.setCsr reg value).finish Code.ok 0)

/-- The byte that FS_RD finds: the buffer's, but beyond the bytes of a Frame Store the rule calls it unspecified, and it
is a free value (45_session_and_host_port R282; entry 2). -/
def State.hostByte (s : State) (a : Nat) : Byte :=
  if s.fsValid = true ∧ s.fsBytelen.toNat ≤ a then Config.freeOutside s.buf.epoch a else s.readByte a

/-- FS_RD addr (45_session_and_host_port R282). -/
def execFsRd (addr : Half) (s : State) : Outcome :=
  if Config.fsCapacity ≤ addr.toNat then .next (s.finish Code.outOfRange 0)
  else .next (s.finish Code.ok ((s.hostByte addr.toNat).setWidth 32))

/-- FS_WR addr, byte (45_session_and_host_port R283). -/
def execFsWr (addr : Half) (byte : Byte) (s : State) : Outcome :=
  if s.fsValid then .next (s.finish Code.badPermissions 0)
  else if Config.fsCapacity ≤ addr.toNat then .next (s.finish Code.outOfRange 0)
  else .next ({ s with buf := s.buf.write addr.toNat byte }.finish Code.ok 0)

/-- A reserved op code answers NotAvailable and changes nothing but RESULT (30_encoding R98). -/
def answerReserved (s : State) : Outcome := .next (s.finish Code.notAvailable 0)

/-- Op 0x0 (30_encoding R98). -/
def execReserved0 (s : State) : Outcome := answerReserved s

/-- Op 0xD (30_encoding R98). -/
def execReservedD (s : State) : Outcome := answerReserved s

/-- Op 0xE (30_encoding R98). -/
def execReservedE (s : State) : Outcome := answerReserved s

/-- Op 0xF (30_encoding R98). -/
def execReservedF (s : State) : Outcome := answerReserved s

end Sys2Proof.Machine
end

