-- ==== Sys2Proof/Machine/FrameStore.lean ====
section
/-! DEFINITION. The Frame Store lifecycle (41_frame_store): FS_ATTACH, TEARDOWN, and the checks and the zero fill of
ALLOCATE. -/

namespace Sys2Proof.Machine

/-- The built-in Panel Profile of a product identifier (00_scope R8, 10_state R27). -/
def profile (product : BitVec 2) : Option (Nat × Nat) :=
  if product = 0 then some (400, 300)
  else if product = 1 then some (122, 250)
  else none

/-- What the checks of ALLOCATE find (41_frame_store R151). -/
inductive Allocation where
  /-- A Frame Store exists: skipped entirely (R152). -/
  | skipped
  | failed (code : Code)
  /-- A w by h Frame Store is to be made. -/
  | fills (w h : Nat)
deriving DecidableEq, Repr

/-- The checks of ALLOCATE with a buffer RAM of `capacity` bytes, in order (41_frame_store R151, R152, R157). -/
def allocationIn (capacity : Nat) (s : State) : Allocation :=
  if s.fsValid then .skipped
  else
    match profile s.product with
    | none => .failed Code.notAvailable
    | some (w, h) => if capacity < bytesNeeded w h then .failed Code.outOfMemory else .fills w h

/-- The checks of ALLOCATE, which SETUP makes too (45_session_and_host_port R274). -/
def allocation (s : State) : Allocation := allocationIn Config.fsCapacity s

/-- The zero fill of ALLOCATE and the registers it then writes (41_frame_store R151). -/
def fillStore (w h : Nat) (s : State) : State :=
  { s with
    buf := s.buf.zeroFill (bytesNeeded w h)
    fsWidth := BitVec.ofNat 16 w
    fsHeight := BitVec.ofNat 16 h
    fsBytelen := BitVec.ofNat 16 (bytesNeeded w h)
    fsValid := true
    fsExternal := false }

/-- The start of ALLOCATE with a buffer RAM of `capacity` bytes: its checks, and the LOCAL position of its zero fill
(41_frame_store R151). -/
def startAllocateIn (capacity : Nat) (s : State) : Outcome :=
  match allocationIn capacity s with
  | .skipped => .next (s.finish Code.ok 0)
  | .failed code => .next (s.finish code 0)
  | .fills _ _ => .next ((s.begin 0x3).enter .localFill)

/-- The start of ALLOCATE. -/
def startAllocate (s : State) : Outcome := startAllocateIn Config.fsCapacity s

/-- FS_ATTACH (41_frame_store R153): the dimensions are trusted (R154). -/
def execFsAttach (s : State) : Outcome :=
  if s.fsValid then .next (s.finish Code.failure 0)
  else if Config.fsCapacity < s.fsBytelen.toNat then .next (s.finish Code.outOfRange 0)
  else .next ({ s with fsValid := true, fsExternal := true }.finish Code.ok 0)

/-- The release of the Frame Store, where there is one: its buffer becomes unspecified (41_frame_store R155,
R156). -/
def release (s : State) : State :=
  if s.fsValid then { s with fsValid := false, fsExternal := false, buf := s.buf.forget } else s

/-- TEARDOWN (41_frame_store R155): the active slot goes independently of the Frame Store. -/
def execTeardown (s : State) : Outcome :=
  .next ({ release s with activeValid := false }.finish Code.ok 0)

end Sys2Proof.Machine
end

