-- ==== Sys2Proof/Machine/Framer.lean ====
section
/-! DEFINITION. The Protocol Primitives (42_protocol_framer): one send, fail-fast. -/

namespace Sys2Proof.Machine

/-- One send (42_protocol_framer R170 to R173): the calls of its wire form in order, ended by the first that is
not answered OK. A provided but empty payload has no meaning (R175) and is refused. -/
def send (w : Wire) (s : State) : Outcome :=
  match w with
  | .wp _ [] => .refused .emptyPayload
  | .wp cmd (b :: data) => .next (runCalls (Wire.wp cmd (b :: data)).calls s).state
  | .w0 cmd => .next (runCalls (Wire.w0 cmd).calls s).state

/-- A send of a command that takes a fixed argument (42_protocol_framer R172 is the case of one byte). -/
def wireFixed (cmd : Byte) (arg : Config.Bytes1) : Wire := .wp cmd arg.toList

end Sys2Proof.Machine
end

