-- ==== Sys2Proof/Machine/RegisterDriver.lean ====
section
/-! DEFINITION. The register driver (43_register_driver): for each command its wire form in a state, and its
meaning, one send. -/

namespace Sys2Proof.Machine

open Config (panel)

/-! ### Panel Init sends with a fixed payload -/

/-- P_ANALOG_BLOCK (43_register_driver R191). -/
def wireAnalogBlock (_ : State) : Wire := wireFixed panel.cmdAnalogBlock panel.argAnalogBlock
def execPAnalogBlock (s : State) : Outcome := send (wireAnalogBlock s) s

/-- P_DIGITAL_BLOCK (R192). -/
def wireDigitalBlock (_ : State) : Wire := wireFixed panel.cmdDigitalBlock panel.argDigitalBlock
def execPDigitalBlock (s : State) : Outcome := send (wireDigitalBlock s) s

/-- P_GATE_VOLTAGE (R194). -/
def wireGateVoltage (_ : State) : Wire := wireFixed panel.cmdGateVoltage panel.argGateVoltage
def execPGateVoltage (s : State) : Outcome := send (wireGateVoltage s) s

/-- P_SOURCE_VOLTAGE (R195). -/
def wireSourceVoltage (_ : State) : Wire := wireFixed panel.cmdSourceVoltage panel.argSourceVoltage
def execPSourceVoltage (s : State) : Outcome := send (wireSourceVoltage s) s

/-- P_DUMMY_LINE (R196). -/
def wireDummyLine (_ : State) : Wire := wireFixed panel.cmdDummyLine panel.argDummyLine
def execPDummyLine (s : State) : Outcome := send (wireDummyLine s) s

/-- P_GATE_LINE_WIDTH (R197). -/
def wireGateLineWidth (_ : State) : Wire := wireFixed panel.cmdGateLineWidth panel.argGateLineWidth
def execPGateLineWidth (s : State) : Outcome := send (wireGateLineWidth s) s

/-- P_DATA_ENTRY_MODE (R198). -/
def wireDataEntryMode (_ : State) : Wire := wireFixed panel.cmdDataEntryMode panel.argDataEntryMode
def execPDataEntryMode (s : State) : Outcome := send (wireDataEntryMode s) s

/-- P_VCOM (R199). -/
def wireVcom (_ : State) : Wire := wireFixed panel.cmdVcom panel.argVcom
def execPVcom (s : State) : Outcome := send (wireVcom s) s

/-- P_BORDER_1 (R200). -/
def wireBorder1 (_ : State) : Wire := wireFixed panel.cmdBorder1 panel.argBorder1
def execPBorder1 (s : State) : Outcome := send (wireBorder1 s) s

/-- P_BORDER_2 (R201). -/
def wireBorder2 (_ : State) : Wire := wireFixed panel.cmdBorder2 panel.argBorder2
def execPBorder2 (s : State) : Outcome := send (wireBorder2 s) s

/-! ### Panel Init sends that read the state -/

/-- P_GATE_SETTING (43_register_driver R193): the height pair. -/
def wireGateSetting (s : State) : Wire := .wp panel.cmdGateSetting s.gatePayload
def execPGateSetting (s : State) : Outcome := send (wireGateSetting s) s

/-- P_SOURCE_OVERRIDE (R202): the command of P_SOURCE_VOLTAGE again, only for yellow or for red on the
wide-format product. -/
def wireSourceOverride? (s : State) : Option Wire :=
  match s.sourceOverride? with
  | some data => some (.wp panel.cmdSourceVoltage data)
  | none => none

/-- Where its condition does not hold nothing is sent, so nothing changes (R202; entry 16). -/
def execPSourceOverride (s : State) : Outcome :=
  match wireSourceOverride? s with
  | some w => send w s
  | none => .next s

/-- P_SET_LUT (R204). The frame-type check that stands before it (44_panel_sequencer R244) is the sequencer's. -/
def wireSetLut (s : State) : Wire := .wp panel.cmdSetLut s.lut
def execPSetLut (s : State) : Outcome := send (wireSetLut s) s

/-! ### Window Setup and pointer sends -/

/-- P_RAM_X_RANGE (43_register_driver R206). -/
def wireRamXRange (s : State) : Wire := .wp panel.cmdRamXRange s.xRangePayload

/-- With W8 = 0 the range would end at -1: no meaning (44_panel_sequencer R232; entry 12). -/
def execPRamXRange (s : State) : Outcome :=
  if s.w8 = 0 then .refused .dimensionsNotAdmitted else send (wireRamXRange s) s

/-- P_RAM_Y_RANGE (R207). -/
def wireRamYRange (s : State) : Wire := .wp panel.cmdRamYRange s.yRangePayload

/-- With a height of 0 the range would end at -1: no meaning (44_panel_sequencer R232; entry 12). -/
def execPRamYRange (s : State) : Outcome :=
  if s.fsHeight.toNat = 0 then .refused .dimensionsNotAdmitted else send (wireRamYRange s) s

/-- P_RAM_X_PTR (R208). -/
def wireRamXPtr (_ : State) : Wire := .wp panel.cmdRamXPtr [0x00]
def execPRamXPtr (s : State) : Outcome := send (wireRamXPtr s) s

/-- P_RAM_Y_PTR for the row of the sequencer position (R209). -/
def wireRamYPtr (s : State) : Wire := .wp panel.cmdRamYPtr (pair s.seq.row.toNat)
def execPRamYPtr (s : State) : Outcome := send (wireRamYPtr s) s

end Sys2Proof.Machine
end

