-- ==== Sys2Proof/Machine/PanelCommands.lean ====
section
/-! DEFINITION. The panel commands of the Update Sequencer itself (44_panel_sequencer): reset, row writes, refresh
and sleep. -/

namespace Sys2Proof.Machine

open Config (panel)

/-- P_SW_RESET (44_panel_sequencer R235). -/
def wireSwReset (_ : State) : Wire := .w0 panel.cmdSwReset
def execPSwReset (s : State) : Outcome := send (wireSwReset s) s

/-- P_WRITE_BW for the row of the sequencer position (R248): sent for every row. -/
def wireWriteBw (s : State) : Wire := .wp panel.cmdWriteBw (s.bwRow s.seq.row.toNat)
def execPWriteBw (s : State) : Outcome := send (wireWriteBw s) s

/-- P_WRITE_COLOR for the row of the sequencer position (R249): only when the colour row has a bit set. -/
def wireWriteColor? (s : State) : Option Wire :=
  if s.colorNonzero s.seq.row.toNat then some (.wp panel.cmdWriteColor (s.colorRow s.seq.row.toNat)) else none

/-- Where the colour row is all zero nothing is sent, so nothing changes (R249; entry 16). -/
def execPWriteColor (s : State) : Outcome :=
  match wireWriteColor? s with
  | some w => send w s
  | none => .next s

/-- P_UPDATE_SEQ (R252). -/
def wireUpdateSeq (_ : State) : Wire := .wp panel.cmdUpdateSeq [panel.argUpdateSeq]
def execPUpdateSeq (s : State) : Outcome := send (wireUpdateSeq s) s

/-- P_TRIGGER (R253). -/
def wireTrigger (_ : State) : Wire := .w0 panel.cmdTrigger
def execPTrigger (s : State) : Outcome := send (wireTrigger s) s

/-- P_DEEP_SLEEP (R256). -/
def wireDeepSleep (_ : State) : Wire := .wp panel.cmdDeepSleep [panel.argDeepSleep]

/-- When its fourth call is answered OK the panel is asleep (R256). -/
def execPDeepSleep (s : State) : Outcome :=
  match runCalls (wireDeepSleep s).calls s with
  | .go t => .next { t with pstate := .asleep }
  | .stop t => .next t

/-- The send of a panel command in a state, if it makes one (30_encoding R101). -/
def PanelCmd.wire? (c : PanelCmd) (s : State) : Option Wire :=
  match c with
  | .swReset => some (wireSwReset s)
  | .analogBlock => some (wireAnalogBlock s)
  | .digitalBlock => some (wireDigitalBlock s)
  | .gateSetting => some (wireGateSetting s)
  | .gateVoltage => some (wireGateVoltage s)
  | .sourceVoltage => some (wireSourceVoltage s)
  | .dummyLine => some (wireDummyLine s)
  | .gateLineWidth => some (wireGateLineWidth s)
  | .dataEntryMode => some (wireDataEntryMode s)
  | .vcom => some (wireVcom s)
  | .border1 => some (wireBorder1 s)
  | .border2 => some (wireBorder2 s)
  | .sourceOverride => wireSourceOverride? s
  | .setLut => some (wireSetLut s)
  | .ramXRange => some (wireRamXRange s)
  | .ramYRange => some (wireRamYRange s)
  | .ramXPtr => some (wireRamXPtr s)
  | .ramYPtr => some (wireRamYPtr s)
  | .writeBw => some (wireWriteBw s)
  | .writeColor => wireWriteColor? s
  | .updateSeq => some (wireUpdateSeq s)
  | .trigger => some (wireTrigger s)
  | .deepSleep => some (wireDeepSleep s)

/-- The capability calls a panel command makes in a state. -/
def PanelCmd.calls (c : PanelCmd) (s : State) : List Call :=
  match PanelCmd.wire? c s with
  | some w => w.calls
  | none => []

/-- Why a panel command is refused in a state, if it is: the ranges that would end below 0 and the empty row
(44_panel_sequencer R232, 42_protocol_framer R175; entries 12 and 13). -/
def PanelCmd.refusal? (c : PanelCmd) (s : State) : Option Refusal :=
  match c with
  | .ramXRange => if s.w8 = 0 then some .dimensionsNotAdmitted else none
  | .ramYRange => if s.fsHeight.toNat = 0 then some .dimensionsNotAdmitted else none
  | .writeBw => if s.w8 = 0 then some .emptyPayload else none
  | .swReset | .analogBlock | .digitalBlock | .gateSetting | .gateVoltage | .sourceVoltage | .dummyLine
  | .gateLineWidth | .dataEntryMode | .vcom | .border1 | .border2 | .sourceOverride | .setLut | .ramXPtr | .ramYPtr
  | .writeColor | .updateSeq | .trigger | .deepSleep => none

end Sys2Proof.Machine
end

