-- ==== Sys2Proof/Machine/PixelCodec.lean ====
section
/-! DEFINITION. The Pixel Codec (40_pixel_codec): SET_PIXEL. -/

namespace Sys2Proof.Machine

/-- The body of SET_PIXEL (40_pixel_codec R131): its result code and the state, with the four checks in order
(R137). Also CLEAR's write of one pixel (44_panel_sequencer R260). -/
def setPixel (x y : Nat) (colour : Colour) (s : State) : Code × State :=
  let w := s.fsWidth.toNat
  let a := byteOf w x y
  let off := offOf w x y
  if s.fsValid = false then (Code.notConfigured, s)
  else if ¬(x < w ∧ y < s.fsHeight.toNat) then (Code.outOfRange, s)
  else if s.capOf colour = false then (Code.notAvailable, s)
  else if s.fsBytelen.toNat ≤ a then (Code.failure, s)
  else (Code.ok, { s with buf := s.buf.write a (setField (s.readByte a) off (codeOf colour)) })

/-- SET_PIXEL x, y, colour (40_pixel_codec R131). -/
def execSetPixel (x y : Half) (colour : Colour) (s : State) : Outcome :=
  match setPixel x.toNat y.toNat colour s with
  | (code, t) => .next (t.finish code 0)

/-- Write one colour to a list of pixels in order, ending at the first that fails (44_panel_sequencer R260). -/
def setPixels (colour : Colour) : List (Nat × Nat) → State → Code × State
  | [], s => (Code.ok, s)
  | (x, y) :: rest, s =>
    match setPixel x y colour s with
    | (code, t) => if code = Code.ok then setPixels colour rest t else (code, t)

/-- The pixels of a w by h image, row by row (44_panel_sequencer R260). -/
def pixelList (w h : Nat) : List (Nat × Nat) :=
  (List.range h).flatMap fun y => (List.range w).map fun x => (x, y)

end Sys2Proof.Machine
end

