-- ==== Sys2Proof/Machine/Sequencer.lean ====
section
/-! DEFINITION. The panel sequencer (44_panel_sequencer) and the operations it carries: the call lists of the phases,
one sequencer step (10_state R20: one internal state change or one capability call), and SETUP, ALLOCATE, UPDATE,
UPDATE_BY_MODE and CLEAR, the operations of more than one core step. -/

namespace Sys2Proof.Machine

open Config (panel)

/-! ### The phases as lists -/

/-- One entry of a phase: a capability call of its own, or a panel command. -/
inductive Item where
  | call (c : Call)
  | send (c : PanelCmd)
deriving DecidableEq, Repr

/-- SETUP's calls before ALLOCATE (45_session_and_host_port R274, R275). -/
def setupItems : List Item :=
  [.call .gpioInit,
   .call (.gpioConfigure .dc .output .low .none),
   .call (.gpioConfigure .reset .output .high .none),
   .call (.gpioConfigure .busy .input .low .none),
   .call .busInit]

/-- The busy poll (44_panel_sequencer R236, R237, R255): both polls of an update pass the same timeout. -/
def busyPoll : Call := .gpioPollUntil .busy panel.tBusyTimeout

/-- Phase 1, Reset (44_panel_sequencer R233 to R236). -/
def resetItems : List Item :=
  [.call (.gpioWrite .reset .low),
   .call (.delay panel.tResetUs),
   .call (.gpioWrite .reset .high),
   .call (.delay panel.tResetUs),
   .send .swReset,
   .call busyPoll]

/-- Phase 2, Panel Init (44_panel_sequencer R240). P_SOURCE_OVERRIDE has no call where its condition fails. -/
def initItems : List Item :=
  [.send .analogBlock, .send .digitalBlock, .send .gateSetting, .send .gateVoltage, .send .sourceVoltage,
   .send .dummyLine, .send .gateLineWidth, .send .dataEntryMode, .send .vcom, .send .border1, .send .border2,
   .send .sourceOverride, .send .setLut]

/-- Phase 3, Window Setup (44_panel_sequencer R245). -/
def windowItems : List Item := [.send .ramXRange, .send .ramYRange]

/-- One row of phase 4, Row Streaming (44_panel_sequencer R250). -/
def rowItems (colored : Bool) : List Item :=
  [.send .ramXPtr, .send .ramYPtr, .send .writeBw] ++
    if colored then [.send .ramXPtr, .send .ramYPtr, .send .writeColor] else []

/-- Phase 5, Trigger & Wait (44_panel_sequencer R251 to R255). -/
def triggerItems : List Item :=
  [.send .updateSeq, .send .trigger, .call (.delay panel.tTriggerUs), .call busyPoll]

/-- Phase 6, Sleep (44_panel_sequencer R256). -/
def sleepItems : List Item := [.send .deepSleep]

/-- The entries of the phase, or of the row, that the sequencer position is in. -/
def phaseItems (s : State) : List Item :=
  match s.seq.phase with
  | .idle | .localFill | .localPixels => []
  | .localPins => setupItems
  | .reset => resetItems
  | .init => initItems
  | .window => windowItems
  | .rows => rowItems (s.colorNonzero s.seq.row.toNat)
  | .trigger => triggerItems
  | .sleep => sleepItems

/-- The capability calls of an entry in a state. -/
def Item.calls (it : Item) (s : State) : List Call :=
  match it with
  | .call c => [c]
  | .send c => PanelCmd.calls c s

/-- The call list of the phase or row the position is in, which K counts along (10_state R24). -/
def phaseCalls (s : State) : List Call := (phaseItems s).flatMap fun it => it.calls s

/-- The entry that call number `k` of a list belongs to, and its number inside the entry. -/
def findItem (s : State) : List Item → Nat → Option (Item × Nat)
  | [], _ => none
  | it :: rest, k =>
    if k < (it.calls s).length then some (it, k) else findItem s rest (k - (it.calls s).length)

/-! ### Moving along -/

/-- The end of a phase or a row, when all its calls were answered OK (10_state R24, 44_panel_sequencer R230): the
next row or phase is entered, or the operation ends with OK. SETUP ends after its Reset phase
(45_session_and_host_port R274); its first five calls are followed by the checks of ALLOCATE, which lead to the zero
fill, past it, or out (R274). -/
def phaseEnd (s : State) : State :=
  match s.seq.phase with
  | .idle | .localFill | .localPixels => s
  | .localPins =>
    match allocation s with
    | .skipped => s.enterReset
    | .failed code => s.abort code
    | .fills _ _ => s.enter .localFill
  | .reset =>
    if s.latch.op = 0x1 then { s with pstate := .awake }.finish Code.ok 0
    else { s with pstate := .awake }.enter .init
  | .init => s.enter .window
  | .window => s.enter .rows
  | .rows =>
    if s.seq.row.toNat + 1 < s.fsHeight.toNat then { s with seq := ⟨.rows, s.seq.row + 1, 0⟩ } else s.enter .trigger
  | .trigger => s.enter .sleep
  | .sleep => { s with pstate := .asleep }.finish Code.ok 0

/-- Move the position on where the call list of its phase or row is exhausted (10_state R24). An operation that
ended or waits for an answer stays where it is. -/
def settle (s : State) : State :=
  if s.seq.phase = .idle ∨ s.waiting = true ∨ s.seq.k < (phaseCalls s).length then s else phaseEnd s

/-- The answer of the call the core waits for (60_exceptions R306, R307). Without one the core goes on
waiting. -/
def resumeCall (s : State) : State :=
  match s.answers with
  | [] => s
  | a :: rest => settle (State.answered { s with answers := rest, waiting := false } a).state

/-- The frame-type check of Panel Init, immediately before P_SET_LUT (44_panel_sequencer R244). -/
def frameTypeFails (c : PanelCmd) (s : State) : Bool := c = .setLut && s.frametype != 0

/-- What stands in front of the call at the position: at the LUT the frame-type check, at a send without a meaning its
refusal, and mostly nothing. -/
def obstacle? (s : State) : Option Outcome :=
  match findItem s (phaseItems s) s.seq.k with
  | some (.send c, 0) =>
    if frameTypeFails c s then some (.next (s.abort Code.notAvailable)) else (PanelCmd.refusal? c s).map .refused
  | some (.send _, _ + 1) | some (.call _, _) | none => none

/-- One capability call: the one that the position names (10_state R20, R24). -/
def callStep (s : State) : Outcome :=
  match obstacle? s with
  | some o => o
  | none =>
    match (phaseCalls s)[s.seq.k]? with
    | none => .fault .noCallAtPosition
    | some c => .next (settle (cap c s).state)

/-- UPDATE's preconditions (44_panel_sequencer R231, R232), and where they are met the start of its Reset phase
(R230). -/
def checkUpdate (s : State) : Outcome :=
  if s.fsValid = false then .next (s.finish Code.notConfigured 0)
  else if s.fsBytelen.toNat < bytesNeeded s.fsWidth.toNat s.fsHeight.toNat then .next (s.finish Code.failure 0)
  else if s.dimensionsInRange = false then .refused .dimensionsNotAdmitted
  else .next s.enterReset

/-- ALLOCATE's zero fill, one internal state change (41_frame_store R151): with it ALLOCATE is done, and SETUP, whose op
code is 1, goes on to its Reset phase (45_session_and_host_port R274). -/
def fillStep (s : State) : Outcome :=
  match profile s.product with
  | none => .fault .noCallAtPosition
  | some (w, h) =>
    if s.latch.op = 0x1 then .next (fillStore w h s).enterReset else .next ((fillStore w h s).finish Code.ok 0)

/-- CLEAR's pixel loop, one internal state change (44_panel_sequencer R260): every pixel to white, row by row, and then
UPDATE, or the code of the first pixel that fails. -/
def pixelStep (s : State) : Outcome :=
  match setPixels .white (pixelList s.fsWidth.toNat s.fsHeight.toNat) s with
  | (code, t) => if code = Code.ok then checkUpdate t else .next (t.abort code)

/-- One core step in an operation in progress (10_state R20): the answer that is waited for, or the local work of a LOCAL
position, or one capability call. -/
def sequencerStep (s : State) : Outcome :=
  if s.waiting then .next (resumeCall s)
  else
    match s.seq.phase with
    | .localFill => fillStep s
    | .localPixels => pixelStep s
    | .idle | .localPins | .reset | .init | .window | .rows | .trigger | .sleep => callStep s

/-- Core steps until the operation has ended or waits for an answer, at most `fuel` of them. -/
def runSequencer : Nat → State → Outcome
  | 0, s => .next s
  | fuel + 1, s =>
    if s.seq.phase = .idle ∨ s.waiting = true then .next s
    else
      match sequencerStep s with
      | .next t => runSequencer fuel t
      | .fault f => .fault f
      | .refused r => .refused r

/-- More core steps than any operation takes: at most 75 + 4 + 24 h calls and the pixel loop
(60_exceptions R307, 44_panel_sequencer R259). -/
def State.opFuel (s : State) : Nat := 128 + 24 * s.fsHeight.toNat

/-- The rest of an operation behind its first core step, as far as the answers at hand allow. -/
def runOutcome : Outcome → Outcome
  | .next t => runSequencer t.opFuel t
  | .fault f => .fault f
  | .refused r => .refused r

/-! ### The operations of more than one core step: the first step, and the whole -/

/-- SETUP starts in LOCAL with its pin configuration (45_session_and_host_port R274). -/
def startSetup (s : State) : Outcome := .next ((s.begin 0x1).enter .localPins)

/-- UPDATE starts with its preconditions (44_panel_sequencer R230). -/
def startUpdate (s : State) : Outcome := checkUpdate (s.begin 0x6)

/-- UPDATE_BY_MODE starts as UPDATE for the one mode that is implemented (44_panel_sequencer R262). -/
def startUpdateByMode (mode : FrameType) (s : State) : Outcome :=
  if mode = .alwaysFull then checkUpdate (s.begin 0x7) else .next (s.finish Code.notAvailable 0)

/-- CLEAR starts in LOCAL with its pixel loop (44_panel_sequencer R260). -/
def startClear (s : State) : Outcome :=
  if s.fsValid = false then .next (s.finish Code.notConfigured 0) else .next ((s.begin 0x8).enter .localPixels)

/-- SETUP (45_session_and_host_port R274). -/
def execSetup (s : State) : Outcome := runOutcome (startSetup s)

/-- ALLOCATE (41_frame_store R151). -/
def execAllocate (s : State) : Outcome := runOutcome (startAllocate s)

/-- UPDATE (44_panel_sequencer R230). -/
def execUpdate (s : State) : Outcome := runOutcome (startUpdate s)

/-- UPDATE_BY_MODE mode (44_panel_sequencer R262). -/
def execUpdateByMode (mode : FrameType) (s : State) : Outcome := runOutcome (startUpdateByMode mode s)

/-- CLEAR (44_panel_sequencer R260): every pixel to white, then one UPDATE. -/
def execClear (s : State) : Outcome := runOutcome (startClear s)

/-- The first core step of an operation of more than one; `none` for an operation that is one internal state change and
for a panel command, which is not requested (10_state R20). -/
def firstStep? (i : Instr) (s : State) : Option Outcome :=
  match i with
  | .setup => some (startSetup s)
  | .allocate => some (startAllocate s)
  | .update => some (startUpdate s)
  | .updateByMode mode => some (startUpdateByMode mode s)
  | .clear => some (startClear s)
  | .teardown | .fsAttach | .setPixel _ _ _ | .csrRead _ | .csrWrite _ _ | .fsRd _ | .fsWr _ _ | .reserved0 | .reservedD
  | .reservedE | .reservedF | .pSwReset | .pAnalogBlock | .pDigitalBlock | .pGateSetting | .pGateVoltage
  | .pSourceVoltage | .pDummyLine | .pGateLineWidth | .pDataEntryMode | .pVcom | .pBorder1 | .pBorder2
  | .pSourceOverride | .pSetLut | .pRamXRange | .pRamYRange | .pRamXPtr | .pRamYPtr | .pWriteBw | .pWriteColor
  | .pUpdateSeq | .pTrigger | .pDeepSleep => none

/-! ### Placing the sequencer at a panel command -/

/-- The position at which the sequencer sends a panel command (44_panel_sequencer R233 to R256), row 0 for the
commands of a row. -/
def commandPosition (c : PanelCmd) (s : State) : Seq :=
  match c with
  | .swReset => ⟨.reset, 0, 4⟩
  | .analogBlock => ⟨.init, 0, 0⟩
  | .digitalBlock => ⟨.init, 0, 4⟩
  | .gateSetting => ⟨.init, 0, 8⟩
  | .gateVoltage => ⟨.init, 0, 12⟩
  | .sourceVoltage => ⟨.init, 0, 16⟩
  | .dummyLine => ⟨.init, 0, 20⟩
  | .gateLineWidth => ⟨.init, 0, 24⟩
  | .dataEntryMode => ⟨.init, 0, 28⟩
  | .vcom => ⟨.init, 0, 32⟩
  | .border1 => ⟨.init, 0, 36⟩
  | .border2 => ⟨.init, 0, 40⟩
  | .sourceOverride => ⟨.init, 0, 44⟩
  | .setLut => ⟨.init, 0, 44 + (PanelCmd.calls .sourceOverride s).length⟩
  | .ramXRange => ⟨.window, 0, 0⟩
  | .ramYRange => ⟨.window, 0, 4⟩
  | .ramXPtr => ⟨.rows, 0, 0⟩
  | .ramYPtr => ⟨.rows, 0, 4⟩
  | .writeBw => ⟨.rows, 0, 8⟩
  | .writeColor => ⟨.rows, 0, 20⟩
  | .updateSeq => ⟨.trigger, 0, 0⟩
  | .trigger => ⟨.trigger, 0, 4⟩
  | .deepSleep => ⟨.sleep, 0, 0⟩

/-- A supplied white 8 by 1 Frame Store, the smallest with a row to send, where the state has none that UPDATE
admits. -/
def withSmallStore (s : State) : State :=
  if s.dimensionsInRange then s
  else
    { s with
      fsWidth := 8, fsHeight := 1, fsBytelen := 2, fsValid := true, fsExternal := true
      buf := (s.buf.write 0 0).write 1 0 }

/-- What the sequencer needs in order to send a command at all: a colour that calls for the override, the full
frame type for the LUT, a window and a row for the commands that send one, a coloured pixel in row 0 for the
colour row. -/
def withCommandCondition (c : PanelCmd) (s : State) : State :=
  match c with
  | .sourceOverride => { s with colorcap := 0x8 }
  | .setLut => { s with frametype := 0 }
  | .ramXRange | .ramYRange | .ramXPtr | .ramYPtr | .writeBw => withSmallStore s
  | .writeColor => { withSmallStore s with buf := (withSmallStore s).buf.write 0 0x02 }
  | .swReset | .analogBlock | .digitalBlock | .gateSetting | .gateVoltage | .sourceVoltage | .dummyLine
  | .gateLineWidth | .dataEntryMode | .vcom | .border1 | .border2 | .updateSeq | .trigger | .deepSleep => s

/-- The state with an update in progress that stands at the first call of a panel command. -/
def placeCommand (c : PanelCmd) (s : State) : State :=
  { withCommandCondition c s with
    seq := commandPosition c (withCommandCondition c s)
    latch := { s.latch with op := 0x6 }
    waiting := false }

end Sys2Proof.Machine
end

