-- ==== Sys2Proof/Machine/Dispatch.lean ====
section
/-! DEFINITION. The dispatch of an instruction to its meaning. -/

namespace Sys2Proof.Machine

/-- The meaning of an instruction. -/
def exec (i : Instr) (s : State) : Host.Outcome State Fault Refusal :=
  match i with
  | .setup => Sys2Proof.Machine.execSetup s
  | .teardown => Sys2Proof.Machine.execTeardown s
  | .allocate => Sys2Proof.Machine.execAllocate s
  | .fsAttach => Sys2Proof.Machine.execFsAttach s
  | .setPixel x y colour => Sys2Proof.Machine.execSetPixel x y colour s
  | .update => Sys2Proof.Machine.execUpdate s
  | .updateByMode mode => Sys2Proof.Machine.execUpdateByMode mode s
  | .clear => Sys2Proof.Machine.execClear s
  | .csrRead reg => Sys2Proof.Machine.execCsrRead reg s
  | .csrWrite reg value => Sys2Proof.Machine.execCsrWrite reg value s
  | .fsRd addr => Sys2Proof.Machine.execFsRd addr s
  | .fsWr addr byte => Sys2Proof.Machine.execFsWr addr byte s
  | .reserved0 => Sys2Proof.Machine.execReserved0 s
  | .reservedD => Sys2Proof.Machine.execReservedD s
  | .reservedE => Sys2Proof.Machine.execReservedE s
  | .reservedF => Sys2Proof.Machine.execReservedF s
  | .pSwReset => Sys2Proof.Machine.execPSwReset s
  | .pAnalogBlock => Sys2Proof.Machine.execPAnalogBlock s
  | .pDigitalBlock => Sys2Proof.Machine.execPDigitalBlock s
  | .pGateSetting => Sys2Proof.Machine.execPGateSetting s
  | .pGateVoltage => Sys2Proof.Machine.execPGateVoltage s
  | .pSourceVoltage => Sys2Proof.Machine.execPSourceVoltage s
  | .pDummyLine => Sys2Proof.Machine.execPDummyLine s
  | .pGateLineWidth => Sys2Proof.Machine.execPGateLineWidth s
  | .pDataEntryMode => Sys2Proof.Machine.execPDataEntryMode s
  | .pVcom => Sys2Proof.Machine.execPVcom s
  | .pBorder1 => Sys2Proof.Machine.execPBorder1 s
  | .pBorder2 => Sys2Proof.Machine.execPBorder2 s
  | .pSourceOverride => Sys2Proof.Machine.execPSourceOverride s
  | .pSetLut => Sys2Proof.Machine.execPSetLut s
  | .pRamXRange => Sys2Proof.Machine.execPRamXRange s
  | .pRamYRange => Sys2Proof.Machine.execPRamYRange s
  | .pRamXPtr => Sys2Proof.Machine.execPRamXPtr s
  | .pRamYPtr => Sys2Proof.Machine.execPRamYPtr s
  | .pWriteBw => Sys2Proof.Machine.execPWriteBw s
  | .pWriteColor => Sys2Proof.Machine.execPWriteColor s
  | .pUpdateSeq => Sys2Proof.Machine.execPUpdateSeq s
  | .pTrigger => Sys2Proof.Machine.execPTrigger s
  | .pDeepSleep => Sys2Proof.Machine.execPDeepSleep s

end Sys2Proof.Machine
end

