-- ==== Sys2Proof/Machine/Step.lean ====
section
/-! DEFINITION. One step is one core step (10_state R20, D36): between operations the acceptance of the next host
request, in an operation one internal state change or one capability call (45_session_and_host_port R270, R271;
10_state R24; entry 5). -/

namespace Sys2Proof.Machine

/-- The first core step of the operation a request asks for: the whole of it where it is one internal state change. -/
def startRequest (i : Instr) (s : State) : Outcome :=
  match firstStep? i s with
  | some o => o
  | none => exec i s

/-- The port accepts a request only when PHASE is IDLE (45_session_and_host_port R271): the word is latched and its
operation started. Without a request the core stays idle. In an operation in progress the sequencer makes one core
step. -/
def step (s : State) : Host.Outcome State Fault Refusal :=
  if s.seq.phase = .idle then
    match s.requests with
    | [] => .next s
    | w :: rest => startRequest (decodeRequest w) (s.accept w rest)
  else sequencerStep s

/-- The state whose next step runs the instruction of a table word (entry 4): a request word stands first at the
port of an idle core; for a panel identifier an update is in progress and stands at that command. -/
def State.withFetchWord (s : State) (nbits w : Nat) : State :=
  match tableWord nbits w with
  | none => s
  | some (.request r) => { s with seq := Seq.idle, waiting := false, requests := r :: s.requests }
  | some (.command _) =>
    match decodeTableWord nbits w with
    | none => s
    | some i =>
      match i.panelCmd? with
      | none => s
      | some c => placeCommand c s

end Sys2Proof.Machine
end

