-- ==== Sys2Proof/Safety.lean ====
section
/-! DEFINITION. What the claims about runs are stated in: the invariant of EPDC, the order of the phases, and the
frame of the sequencer. -/

namespace Sys2Proof.Machine

/-- UPDATE's preconditions hold: a Frame Store exists, its bytes cover its dimensions, and the dimensions are
admitted (44_panel_sequencer R231, R232). -/
def State.ready (s : State) : Bool :=
  s.fsValid && decide (bytesNeeded s.fsWidth.toNat s.fsHeight.toNat ≤ s.fsBytelen.toNat) && s.dimensionsInRange

/-- The sequencer position names a call of its phase, or local work (10_state R24): (IDLE, 0, 0) between operations; pin
configuration in SETUP; a zero fill in SETUP or ALLOCATE where no Frame Store exists and the product has a profile; the
pixel loop in CLEAR; a row below the height in Row Streaming and row 0 elsewhere; and every phase of an update only
with its preconditions met. -/
def State.positionOk (s : State) : Bool :=
  match s.seq.phase with
  | .idle => decide (s.seq.row = 0) && decide (s.seq.k = 0) && !s.waiting
  | .localPins => decide (s.seq.row = 0) && decide (s.seq.k < (phaseCalls s).length) && decide (s.latch.op = 0x1)
  | .localFill =>
    decide (s.seq.row = 0) && decide (s.seq.k = 0) && !s.waiting && !s.fsValid && (profile s.product).isSome &&
      (decide (s.latch.op = 0x1) || decide (s.latch.op = 0x3))
  | .localPixels =>
    decide (s.seq.row = 0) && decide (s.seq.k = 0) && !s.waiting && s.fsValid && decide (s.latch.op = 0x8)
  | .reset =>
    decide (s.seq.row = 0) && decide (s.seq.k < (phaseCalls s).length) && (decide (s.latch.op = 0x1) || s.ready)
  | .rows => decide (s.seq.row.toNat < s.fsHeight.toNat) && decide (s.seq.k < (phaseCalls s).length) && s.ready
  | .init | .window | .trigger | .sleep =>
    decide (s.seq.row = 0) && decide (s.seq.k < (phaseCalls s).length) && s.ready

/-- PSTATE says what the core has done to the panel (10_state R33): INDETERMINATE inside a Reset phase, AWAKE from
its end until the Sleep send is done. -/
def State.pstateOk (s : State) : Bool :=
  match s.seq.phase with
  | .reset => decide (s.pstate = .indeterminate)
  | .init | .window | .rows | .trigger | .sleep => decide (s.pstate = .awake)
  | .idle | .localPins | .localFill | .localPixels => true

/-- The invariant: the buffer keeps its canonical form, a supplied Frame Store is a Frame Store (41_frame_store
R150), the position names a call, and PSTATE agrees with the phase. -/
def Invariant (s : State) : Prop :=
  s.buf.wf = true ∧ (s.fsExternal = true → s.fsValid = true) ∧ s.positionOk = true ∧ s.pstateOk = true

/-- The phase that may come after a phase in one core step: the same, the next one, or the end of the operation
(44_panel_sequencer R230: "strictly sequential, no branching back except on error"); behind LOCAL, what
45_session_and_host_port R274, 41_frame_store R151 and 44_panel_sequencer R260 let follow. -/
def Phase.follows : Phase → Phase → Bool
  | _, .idle => true
  | .localPins, .localPins | .localPins, .localFill | .localPins, .reset => true
  | .localFill, .localFill | .localFill, .reset => true
  | .localPixels, .localPixels | .localPixels, .reset => true
  | .reset, .reset | .reset, .init => true
  | .init, .init | .init, .window => true
  | .window, .window | .window, .rows => true
  | .rows, .rows | .rows, .trigger => true
  | .trigger, .trigger | .trigger, .sleep => true
  | .sleep, .sleep => true
  | _, _ => false

/-- `t` differs from `s` at most in the position, the wait, the answers used, the trace, the result and response,
and PSTATE: every register, the buffer, the latch, the flags and the host's requests are the same. -/
def SequencerFrame (s t : State) : Prop :=
  t = { s with
        seq := t.seq
        waiting := t.waiting
        answers := t.answers
        trace := t.trace
        result := t.result
        response := t.response
        pstate := t.pstate }

/-- An outcome that is no fault. -/
def NoFault : Outcome → Prop
  | .fault _ => False
  | .next _ => True
  | .refused _ => True

end Sys2Proof.Machine
end

