-- ==== Sys2Proof/Certificates/Slice0/Obligations.lean ====
section
/-! DEFINITION. The statements for the provers. The scripts and end states they name (`Claims`) are written out from
the spec's rules, not from the model's lists. -/

open Sys2Proof Sys2Proof.Machine
open Sys2Proof.Config (panel)

/-! ### What the statements are written in -/

namespace Sys2Proof.Claims

/-- The state after an operation that ended with a code and a data word (45_session_and_host_port R270): nothing
but the result, the response and the position differs. -/
def ended (s : State) (code : Code) (data : DataWord) : State :=
  { s with result := code, response := some ⟨code, data⟩, seq := ⟨.idle, 0, 0⟩, waiting := false }

/-- The state after calls that were all answered OK, `rest` being the answers left (00_scope R16, 10_state R24). -/
def sent (s : State) (calls : List Call) (rest : List Code) : State :=
  { s with
    trace := s.trace ++ calls.map fun c => ⟨c, s.ctx⟩
    answers := rest
    seq := { s.seq with k := s.seq.k + calls.length } }

/-- The answer OK to `n` calls, and then `rest`. -/
def oks (n : Nat) (rest : List Code) : List Code := List.replicate n 0 ++ rest

/-- Form W0 (30_encoding R99, 42_protocol_framer R171). -/
def w0 (cmd : Byte) : List Call := [.gpioWrite .dc .low, .busWrite [cmd]]

/-- Form WP (30_encoding R99, 42_protocol_framer R171). -/
def wp (cmd : Byte) (data : List Byte) : List Call :=
  [.gpioWrite .dc .low, .busWrite [cmd], .gpioWrite .dc .high, .busWrite data]

/-- `pair(v)` (30_encoding R104). -/
def pairOf (v : Nat) : List Byte := [BitVec.ofNat 8 (v / 4 % 256), BitVec.ofNat 8 (v % 256)]

/-- The Reset phase (44_panel_sequencer R233). -/
def resetScript : List Call :=
  [.gpioWrite .reset .low, .delay panel.tResetUs, .gpioWrite .reset .high, .delay panel.tResetUs] ++
    w0 panel.cmdSwReset ++ [.gpioPollUntil .busy panel.tBusyTimeout]

/-- The source-voltage override (43_register_driver R202). -/
def overrideScript (s : State) : List Call :=
  if s.colorcap.getLsbD 3 then wp panel.cmdSourceVoltage panel.argSourceOverrideYellow.toList
  else if s.colorcap.getLsbD 2 = true ∧ s.product = 0 then wp panel.cmdSourceVoltage panel.argSourceOverrideRed.toList
  else []

/-- The sends of Panel Init before the frame-type check (44_panel_sequencer R240). -/
def registerScript (s : State) : List Call :=
  wp panel.cmdAnalogBlock panel.argAnalogBlock.toList ++ wp panel.cmdDigitalBlock panel.argDigitalBlock.toList ++
  wp panel.cmdGateSetting (pairOf s.fsHeight.toNat) ++ wp panel.cmdGateVoltage panel.argGateVoltage.toList ++
  wp panel.cmdSourceVoltage panel.argSourceVoltage.toList ++ wp panel.cmdDummyLine panel.argDummyLine.toList ++
  wp panel.cmdGateLineWidth panel.argGateLineWidth.toList ++ wp panel.cmdDataEntryMode panel.argDataEntryMode.toList ++
  wp panel.cmdVcom panel.argVcom.toList ++ wp panel.cmdBorder1 panel.argBorder1.toList ++
  wp panel.cmdBorder2 panel.argBorder2.toList ++ overrideScript s

/-- The waveform table (43_register_driver R204). -/
def lutOf (s : State) : List Byte :=
  if s.colorcap.getLsbD 3 then panel.lutYellow.toList
  else if s.colorcap.getLsbD 2 then panel.lutRed.toList
  else panel.lutBw.toList

/-- The Panel Init phase (44_panel_sequencer R240). -/
def initScript (s : State) : List Call := registerScript s ++ wp panel.cmdSetLut (lutOf s)

/-- The Window Setup phase (44_panel_sequencer R245, 43_register_driver R206, R207). -/
def windowScript (s : State) : List Call :=
  wp panel.cmdRamXRange [0, BitVec.ofNat 8 (s.fsWidth.toNat / 8 - 1)] ++
  wp panel.cmdRamYRange (pairOf 0 ++ pairOf (s.fsHeight.toNat - 1))

/-- One row of Row Streaming (44_panel_sequencer R250). -/
def rowScript (s : State) (r : Nat) : List Call :=
  wp panel.cmdRamXPtr [0] ++ wp panel.cmdRamYPtr (pairOf r) ++ wp panel.cmdWriteBw (s.bwRow r) ++
  if ∃ b ∈ s.colorRow r, b ≠ 0 then
    wp panel.cmdRamXPtr [0] ++ wp panel.cmdRamYPtr (pairOf r) ++ wp panel.cmdWriteColor (s.colorRow r)
  else []

/-- The Row Streaming phase: rows 0 to height - 1, increasing (44_panel_sequencer R246). -/
def rowsScript (s : State) : List Call := (List.range s.fsHeight.toNat).flatMap (rowScript s)

/-- Trigger & Wait (44_panel_sequencer R251) and Sleep (R256). -/
def endScript : List Call :=
  wp panel.cmdUpdateSeq [panel.argUpdateSeq] ++ w0 panel.cmdTrigger ++
  [.delay panel.tTriggerUs, .gpioPollUntil .busy panel.tBusyTimeout] ++ wp panel.cmdDeepSleep [panel.argDeepSleep]

/-- Every call of a successful update (44_panel_sequencer R230). -/
def updateScript (s : State) : List Call :=
  resetScript ++ initScript s ++ windowScript s ++ rowsScript s ++ endScript

/-- SETUP's calls before ALLOCATE (45_session_and_host_port R274). -/
def setupScript : List Call :=
  [.gpioInit, .gpioConfigure .dc .output .low .none, .gpioConfigure .reset .output .high .none,
   .gpioConfigure .busy .input .low .none, .busInit]

/-- The state after a run of calls that ended the operation with a code: `calls` are in the trace, `rest` the
answers left, PSTATE as given; every register, the buffer and the flags are as in `s`. -/
def afterRun (s : State) (calls : List Call) (rest : List Code) (p : PState) (code : Code) : State :=
  ended { s with trace := s.trace ++ calls.map fun c => ⟨c, s.ctx⟩, answers := rest, pstate := p } code 0

/-- `s` with an op code in the request latch. -/
def latched (s : State) (op : BitVec 4) : State := { s with latch := { s.latch with op := op } }

/-- UPDATE's preconditions and admitted dimensions (44_panel_sequencer R231, R232). -/
def updatable (s : State) : Prop :=
  s.fsValid = true ∧ (s.fsWidth.toNat * s.fsHeight.toNat * 2 + 7) / 8 ≤ s.fsBytelen.toNat ∧
  8 ≤ s.fsWidth.toNat ∧ s.fsWidth.toNat ≤ 2055 ∧ 1 ≤ s.fsHeight.toNat

/-- The calls an update makes at most: all of them, or under another frame type those before the check of
44_panel_sequencer R244. -/
def possibleCalls (s : State) : List Call :=
  if s.frametype = 0 then updateScript s else resetScript ++ registerScript s

/-- PSTATE after an abort in a phase: INDETERMINATE from the Reset phase on, unchanged outside the six phases of an
update, that is in IDLE and LOCAL (60_exceptions R312). -/
def pstateAfterAbort (s : State) : PState :=
  if s.seq.phase.code = 0 ∨ s.seq.phase.code = 7 then s.pstate else .indeterminate

/-- The state when the last call of the phase or row of `u` was answered OK (10_state R24, 44_panel_sequencer R230,
R233, R256): the next row, the next phase, or the end. SETUP goes from its pin configuration by ALLOCATE's checks to
the zero fill or past it, and ends after its Reset phase (45_session_and_host_port R274). -/
def afterLast (u : State) : State :=
  match u.seq.phase with
  | .idle | .localFill | .localPixels => u
  | .localPins =>
    if u.fsValid then { u with seq := ⟨.reset, 0, 0⟩, pstate := .indeterminate }
    else if u.product = 0 ∨ u.product = 1 then { u with seq := ⟨.localFill, 0, 0⟩ }
    else ended u 1 0
  | .reset =>
    if u.latch.op = 1 then ended { u with pstate := .awake } 0 0
    else { u with seq := ⟨.init, 0, 0⟩, pstate := .awake }
  | .init => { u with seq := ⟨.window, 0, 0⟩ }
  | .window => { u with seq := ⟨.rows, 0, 0⟩ }
  | .rows =>
    if u.seq.row.toNat + 1 < u.fsHeight.toNat then { u with seq := ⟨.rows, u.seq.row + 1, 0⟩ }
    else { u with seq := ⟨.trigger, 0, 0⟩ }
  | .trigger => { u with seq := ⟨.sleep, 0, 0⟩ }
  | .sleep => ended { u with pstate := .asleep } 0 0

/-- An operation of more than one core step. -/
def longOperation (i : Instr) : Prop :=
  i = .setup ∨ i = .allocate ∨ i = .update ∨ (∃ m, i = .updateByMode m) ∨ i = .clear

/-- The number of rows whose colour row has a bit set (44_panel_sequencer R259). -/
def coloredRows (s : State) : Nat :=
  ((List.range s.fsHeight.toNat).filter fun r => decide (∃ b ∈ s.colorRow r, b ≠ 0)).length

/-- A call that is a bus write. -/
def isBusWrite : Call → Bool
  | .busWrite _ => true
  | .gpioInit | .gpioConfigure _ _ _ _ | .gpioWrite _ _ | .gpioRead _ | .gpioPollUntil _ _ | .busInit | .delay _ => false

end Sys2Proof.Claims

open Sys2Proof.Claims

/-! ### Encoding -/

/-- A few request words, written out from 30_encoding R91 and R92, decode to the operations they stand for; the
word of 95_test_vectors V140 shows an ignored byte. The two words of panel commands in the last two clauses are read
under the identifiers of the test instantiation T0, which 00_scope R11 says bind nothing (entry 9, PRESUMED). -/
def Obligations.RequestWordsDecode : Prop :=
  decodeRequest 0x100000000000 = .setup ∧ decodeRequest 0x51FF00000000 = .setPixel 0 0 .black ∧
  decodeRequest 0x520000010008 = .setPixel 8 1 .red ∧ decodeRequest 0x710000000000 = .updateByMode .diff ∧
  decodeRequest 0x9A0000000000 = .csrRead 0xA ∧ decodeRequest 0xA10000000007 = .csrWrite 1 7 ∧
  decodeRequest 0xB00000001DC8 = .fsRd 7624 ∧ decodeRequest 0xC00000FF0000 = .fsWr 0 0xFF ∧
  decodeRequest 0xF00000000000 = .reservedF ∧ decodeTableWord 8 0x4F = some .pRamYPtr ∧
  decodeTableWord 8 0x26 = some .pWriteColor

/-- 30_encoding R91: a field that an operation ignores never changes which operation with which operands a
word is. -/
def Obligations.IgnoredFieldsDoNotMatter : Prop :=
  ∀ w w' : RequestWord,
    w.extractLsb' 44 4 = w'.extractLsb' 44 4 →
    (w.extractLsb' 40 4).toNat % 2 ^ (fieldsRead (w.extractLsb' 44 4)).1 =
      (w'.extractLsb' 40 4).toNat % 2 ^ (fieldsRead (w.extractLsb' 44 4)).1 →
    (w.extractLsb' 16 16).toNat % 2 ^ (fieldsRead (w.extractLsb' 44 4)).2.1 =
      (w'.extractLsb' 16 16).toNat % 2 ^ (fieldsRead (w.extractLsb' 44 4)).2.1 →
    (w.extractLsb' 0 16).toNat % 2 ^ (fieldsRead (w.extractLsb' 44 4)).2.2 =
      (w'.extractLsb' 0 16).toNat % 2 ^ (fieldsRead (w.extractLsb' 44 4)).2.2 →
    decodeRequest w = decodeRequest w'

/-- Every host operation, with every operand, decodes from its encoding. -/
def Obligations.HostOperationsRoundTrip : Prop :=
  ∀ (p : Config.OpenParams) (i : Instr), i.panelCmd? = none → decode p (encode p i) = .ok i

/-- Every request word whose ignored bits are 0 is the encoding of the operation it decodes to. -/
def Obligations.WellFormedWordsRoundTrip : Prop :=
  ∀ (p : Config.OpenParams) (w : RequestWord), wellFormedRequest w = true →
    encode p (decodeRequest w) = .request w

/-- Under identifiers that are all different every panel command decodes from its identifier, but for the
override, which is the source-voltage command again (30_encoding R101). -/
def Obligations.PanelIdentifiersRoundTrip : Prop :=
  ∀ p : Config.OpenParams, (∀ a b : CommandId, identifier p a = identifier p b → a = b) →
    (∀ c : PanelCmd, c ≠ .sourceOverride → decode p (encode p c.instr) = .ok c.instr) ∧
    decode p (encode p .pSourceOverride) = .ok .pSourceVoltage

/-! ### The step -/

/-- An idle core accepts the next request and latches its word, without a call (45_session_and_host_port R270, 10_state
R22). An operation of one internal state change is executed in that step; SETUP, ALLOCATE, UPDATE, UPDATE_BY_MODE and
CLEAR start in it, and it and the core steps after it together do what `exec` says the operation does. How an
operation divides into steps is the model's choice (entry 5), and so are that the response of the operation before goes
at acceptance (entry 7) and when the latch is written (entry 10). -/
def Obligations.StepRunsTheRequest : Prop :=
  ∀ (s s' : State) (w : RequestWord) (rest : List RequestWord),
    s.seq.phase = .idle → s.requests = w :: rest →
    s' = { s with
           latch := ⟨w.extractLsb' 44 4, w.extractLsb' 40 4, w.extractLsb' 0 16, w.extractLsb' 16 16⟩
           response := none
           requests := rest } →
    (¬ longOperation (decodeRequest w) → step s = exec (decodeRequest w) s') ∧
    (∃ n, 1 ≤ n ∧ Host.Core.run Sys2Proof.core n s = exec (decodeRequest w) s') ∧
    ∀ t, step s = .next t → t.trace = s.trace ∧ t.answers = s.answers ∧ t.requests = rest ∧
      t.latch.sub = s'.latch.sub ∧ t.latch.x = s'.latch.x ∧ t.latch.y = s'.latch.y ∧ t.latch.op = s'.latch.op

/-- In an operation in progress, the core steps from the first call of a panel command on, one for each call (10_state
R20), together do what `exec` says the command does, and then the position has moved on (R24). How many steps that
takes is the model's choice (entry 5), and that the frame-type check stands before P_SET_LUT is entry 15. -/
def Obligations.StepRunsThePanelCommand : Prop :=
  ∀ (s : State) (c : PanelCmd),
    s.seq.phase ≠ .idle → s.waiting = false → findItem s (phaseItems s) s.seq.k = some (.send c, 0) →
    (c = .setLut → s.frametype = 0) →
    ∃ n, 1 ≤ n ∧
      (∀ t, exec c.instr s = .next t → Host.Core.run Sys2Proof.core n s = .next (settle t)) ∧
      ∀ r, exec c.instr s = .refused r → Host.Core.run Sys2Proof.core n s = .refused r

/-- 45_session_and_host_port R271: while an operation is in progress no request is accepted, and none is lost.
An idle core without a request stays as it is. -/
def Obligations.BusyPortKeepsRequests : Prop :=
  (∀ s t : State, s.seq.phase ≠ .idle → step s = .next t → t.requests = s.requests ∧ t.latch = s.latch) ∧
  (∀ s : State, s.seq.phase = .idle → s.requests = [] → step s = .next s)

/-- 60_exceptions R307: while the environment does not answer a call nothing changes. When it answers OK the position
moves on, to the next call (10_state R24) or, behind the last one, to the next row or phase or the end; when it answers
anything else the operation ends with that code (60_exceptions R306, R312). The model's convention (entry 3) is that no
answer at hand is a call not answered. -/
def Obligations.UnansweredCallHangs : Prop :=
  (∀ s : State, s.seq.phase ≠ .idle → s.waiting = true → s.answers = [] → step s = .next s) ∧
  (∀ (s : State) (rest : List Code), s.seq.phase ≠ .idle → s.waiting = true → s.answers = 0 :: rest →
    s.seq.k + 1 < (phaseCalls s).length →
    step s = .next { s with answers := rest, waiting := false, seq := { s.seq with k := s.seq.k + 1 } }) ∧
  (∀ (s : State) (rest : List Code), s.seq.phase ≠ .idle → s.waiting = true → s.answers = 0 :: rest →
    s.seq.k + 1 = (phaseCalls s).length →
    step s = .next (afterLast { s with answers := rest, waiting := false })) ∧
  (∀ (s : State) (a : Code) (rest : List Code),
    s.seq.phase ≠ .idle → s.waiting = true → s.answers = a :: rest → a ≠ 0 →
    step s = .next (afterRun s [] rest (pstateAfterAbort s) a))

/-- What block reset leaves where 10_state R42 gives a value: the flags 0, PSTATE UNTOUCHED, RESULT OK, `seq` idle,
the trace empty; and no byte of the buffer has a value. -/
def Obligations.ResetState : Prop :=
  State.reset.statusWord = 0 ∧ State.reset.result = 0 ∧ State.reset.seq = ⟨.idle, 0, 0⟩ ∧ State.reset.trace = [] ∧
  ∀ a, State.reset.readByte a = Config.freeByte State.reset.buf.epoch a

/-! ### Registers -/

/-- 45_session_and_host_port R280: CSR_READ answers the register's value, zero-extended, and OutOfRange for a
reserved address; RESULT reads as the code of the operation before; nothing else changes. -/
def Obligations.CsrReadAnswers : Prop :=
  ∀ s : State,
    exec (.csrRead 0x0) s = .next (ended s 0 (s.product.setWidth 32)) ∧
    exec (.csrRead 0x1) s = .next (ended s 0 (s.colorcap.setWidth 32)) ∧
    exec (.csrRead 0x2) s = .next (ended s 0 (s.frametype.setWidth 32)) ∧
    exec (.csrRead 0x3) s = .next (ended s 0 (s.fsWidth.setWidth 32)) ∧
    exec (.csrRead 0x4) s = .next (ended s 0 (s.fsHeight.setWidth 32)) ∧
    exec (.csrRead 0x5) s = .next (ended s 0 (s.fsBytelen.setWidth 32)) ∧
    exec (.csrRead 0x6) s = .next (ended s 0 (s.user0.setWidth 32)) ∧
    exec (.csrRead 0x7) s = .next (ended s 0 (s.user1.setWidth 32)) ∧
    exec (.csrRead 0x8) s = .next (ended s 0 (s.ctx.setWidth 32)) ∧
    exec (.csrRead 0x9) s = .next (ended s 0 (s.statusWord.setWidth 32)) ∧
    exec (.csrRead 0xA) s = .next (ended s 0 (s.result.setWidth 32)) ∧
    ∀ reg : RegAddr, 0xB ≤ reg.toNat → ∃ data, exec (.csrRead reg) s = .next (ended s 5 data)

/-- 10_state R33: the layout of STATUS. -/
def Obligations.StatusLayout : Prop :=
  ∀ s : State,
    s.statusWord.getLsbD 0 = s.fsValid ∧ s.statusWord.getLsbD 1 = s.fsExternal ∧
    s.statusWord.getLsbD 2 = s.activeValid ∧
    (s.statusWord.extractLsb' 3 2 =
      match s.pstate with
      | .untouched => 0
      | .awake => 1
      | .asleep => 2
      | .indeterminate => 3)

/-- 45_session_and_host_port R281: CSR_WRITE stores the low bits in the register and nothing else; the dimension
registers are locked while a Frame Store exists, STATUS and RESULT always; a reserved address is OutOfRange. -/
def Obligations.CsrWriteStores : Prop :=
  ∀ (s : State) (v : DataWord),
    exec (.csrWrite 0x0 v) s = .next (ended { s with product := v.setWidth 2 } 0 0) ∧
    exec (.csrWrite 0x1 v) s = .next (ended { s with colorcap := v.setWidth 4 } 0 0) ∧
    exec (.csrWrite 0x2 v) s = .next (ended { s with frametype := v.setWidth 2 } 0 0) ∧
    exec (.csrWrite 0x6 v) s = .next (ended { s with user0 := v.setWidth 32 } 0 0) ∧
    exec (.csrWrite 0x7 v) s = .next (ended { s with user1 := v.setWidth 32 } 0 0) ∧
    exec (.csrWrite 0x8 v) s = .next (ended { s with ctx := v.setWidth 32 } 0 0) ∧
    exec (.csrWrite 0x9 v) s = .next (ended s 3 0) ∧
    exec (.csrWrite 0xA v) s = .next (ended s 3 0) ∧
    (s.fsValid = false →
      exec (.csrWrite 0x3 v) s = .next (ended { s with fsWidth := v.setWidth 16 } 0 0) ∧
      exec (.csrWrite 0x4 v) s = .next (ended { s with fsHeight := v.setWidth 16 } 0 0) ∧
      exec (.csrWrite 0x5 v) s = .next (ended { s with fsBytelen := v.setWidth 16 } 0 0)) ∧
    (s.fsValid = true → ∀ reg : RegAddr, reg = 0x3 ∨ reg = 0x4 ∨ reg = 0x5 →
      exec (.csrWrite reg v) s = .next (ended s 3 0)) ∧
    ∀ reg : RegAddr, 0xB ≤ reg.toNat → exec (.csrWrite reg v) s = .next (ended s 5 0)

/-- A CSR_WRITE answered OK is what a CSR_READ then reads, cut to the register's width, and every other register
but RESULT reads as before (10_state R26). -/
def Obligations.CsrWriteThenRead : Prop :=
  ∀ (s t u : State) (reg : RegAddr) (v : DataWord),
    exec (.csrWrite reg v) s = .next t → t.result = 0 → exec (.csrRead reg) t = .next u →
    u.response = some ⟨0, v &&&
      (if reg = 0x0 ∨ reg = 0x2 then 0x3 else if reg = 0x1 then 0xF
       else if reg = 0x3 ∨ reg = 0x4 ∨ reg = 0x5 then 0xFFFF else 0xFFFFFFFF)⟩ ∧
    ∀ other : RegAddr, other ≠ reg → other ≠ 0xA → t.csrValue other = s.csrValue other

/-- 30_encoding R98: the four reserved op codes answer NotAvailable, make no call and change nothing else. -/
def Obligations.ReservedOpsAnswerNotAvailable : Prop :=
  ∀ s : State,
    exec .reserved0 s = .next (ended s 1 0) ∧ exec .reservedD s = .next (ended s 1 0) ∧
    exec .reservedE s = .next (ended s 1 0) ∧ exec .reservedF s = .next (ended s 1 0)

/-! ### The buffer from the host -/

/-- 45_session_and_host_port R282: FS_RD answers the byte, whether or not a Frame Store exists; beyond the bytes of a
Frame Store it answers some byte (unspecified: a free value, entry 2); from FS_CAPACITY (65535) on OutOfRange. -/
def Obligations.FsRdAnswersTheByte : Prop :=
  ∀ (s : State) (addr : Half),
    (addr.toNat < 65535 → s.fsValid = false ∨ addr.toNat < s.fsBytelen.toNat →
      exec (.fsRd addr) s = .next (ended s 0 ((s.readByte addr.toNat).setWidth 32))) ∧
    (addr.toNat < 65535 → s.fsValid = true → s.fsBytelen.toNat ≤ addr.toNat →
      ∃ b : Byte, exec (.fsRd addr) s = .next (ended s 0 (b.setWidth 32))) ∧
    (65535 ≤ addr.toNat → ∃ data, exec (.fsRd addr) s = .next (ended s 5 data))

/-- 45_session_and_host_port R283: FS_WR stores one byte while no Frame Store exists and is refused with
BadPermissions while one does; every other byte and all else is as before. -/
def Obligations.FsWrStoresTheByte : Prop :=
  ∀ (s : State) (addr : Half) (byte : Byte),
    (s.fsValid = false → addr.toNat < 65535 →
      ∃ t, exec (.fsWr addr byte) s = .next t ∧ t = ended { s with buf := t.buf } 0 0 ∧
        t.readByte addr.toNat = byte ∧ ∀ a, a ≠ addr.toNat → t.readByte a = s.readByte a) ∧
    (s.fsValid = false → 65535 ≤ addr.toNat → exec (.fsWr addr byte) s = .next (ended s 5 0)) ∧
    (s.fsValid = true → exec (.fsWr addr byte) s = .next (ended s 3 0))

/-! ### The Frame Store lifecycle -/

/-- 41_frame_store R151: ALLOCATE without a Frame Store takes the profile of the product, zero-fills its bytes
(all pixels white), and leaves every other byte and register as it was; custom and unknown products answer
NotAvailable and write nothing; with a Frame Store present it is skipped (R152); a buffer RAM smaller than the image
would be OutOfMemory (R157). That the latch then holds ALLOCATE's op code is entry 10. -/
def Obligations.AllocateMakesAWhiteStore : Prop :=
  ∀ s : State,
    (s.fsValid = false → ∀ w h n : Nat,
      (s.product = 0 ∧ w = 400 ∧ h = 300 ∧ n = 30000) ∨ (s.product = 1 ∧ w = 122 ∧ h = 250 ∧ n = 7625) →
      ∃ t, exec .allocate s = .next t ∧
        t = ended
          (latched { s with
                     buf := t.buf, fsWidth := BitVec.ofNat 16 w, fsHeight := BitVec.ofNat 16 h,
                     fsBytelen := BitVec.ofNat 16 n, fsValid := true, fsExternal := false } 3) 0 0 ∧
        (∀ a, a < n → t.readByte a = 0) ∧ (∀ a, n ≤ a → t.readByte a = s.readByte a) ∧
        ∀ x y, x < w → y < h → t.pixelCode x y = 0) ∧
    (s.fsValid = false → s.product = 2 ∨ s.product = 3 → exec .allocate s = .next (ended s 1 0)) ∧
    (s.fsValid = true → exec .allocate s = .next (ended s 0 0)) ∧
    (s.fsValid = false → s.product = 0 → ∀ capacity, capacity < 30000 →
      startAllocateIn capacity s = .next (ended s 4 0))

/-- 41_frame_store R153: FS_ATTACH makes the buffer, as it is, the Frame Store; with one present it answers Failure.
With FS_CAPACITY 65535 no byte length is out of range. -/
def Obligations.FsAttachTakesTheBuffer : Prop :=
  ∀ s : State,
    (s.fsValid = false → exec .fsAttach s = .next (ended { s with fsValid := true, fsExternal := true } 0 0)) ∧
    (s.fsValid = true → exec .fsAttach s = .next (ended s 8 0))

/-- 41_frame_store R155, R156: TEARDOWN releases the Frame Store, and independently the active slot; the buffer
becomes unspecified (each byte a new free value); the dimension registers and PSTATE stay; without either it
changes nothing. The free value is the model's form of "unspecified" (entry 2). -/
def Obligations.TeardownReleases : Prop :=
  ∀ s : State,
    (s.fsValid = true →
      ∃ t, exec .teardown s = .next t ∧
        t = ended { s with fsValid := false, fsExternal := false, activeValid := false, buf := t.buf } 0 0 ∧
        ∀ a, t.readByte a = Config.freeByte (s.buf.epoch + 1) a) ∧
    (s.fsValid = false → exec .teardown s = .next (ended { s with activeValid := false } 0 0))

/-! ### Pixels -/

/-- 40_pixel_codec R131, R137: the failing checks of SET_PIXEL, each with the checks before it passed; nothing is
written. -/
def Obligations.SetPixelChecksInOrder : Prop :=
  ∀ (s : State) (x y : Half) (c : Colour) (bit : Nat),
    (c = .white ∧ bit = 0) ∨ (c = .black ∧ bit = 1) ∨ (c = .red ∧ bit = 2) ∨ (c = .yellow ∧ bit = 3) →
    (s.fsValid = false → exec (.setPixel x y c) s = .next (ended s 6 0)) ∧
    (s.fsValid = true → s.fsWidth.toNat ≤ x.toNat ∨ s.fsHeight.toNat ≤ y.toNat →
      exec (.setPixel x y c) s = .next (ended s 5 0)) ∧
    (s.fsValid = true → x.toNat < s.fsWidth.toNat → y.toNat < s.fsHeight.toNat → s.colorcap.getLsbD bit = false →
      exec (.setPixel x y c) s = .next (ended s 1 0)) ∧
    (s.fsValid = true → x.toNat < s.fsWidth.toNat → y.toNat < s.fsHeight.toNat → s.colorcap.getLsbD bit = true →
      s.fsBytelen.toNat ≤ (y.toNat * s.fsWidth.toNat + x.toNat) * 2 / 8 →
      exec (.setPixel x y c) s = .next (ended s 8 0))

/-- 40_pixel_codec R131, R134: SET_PIXEL replaces the two bits of the pixel's field by the colour's code; the other
six bits of the byte, every other byte and all else stay. -/
def Obligations.SetPixelReplacesOneField : Prop :=
  ∀ (s : State) (x y : Half) (c : Colour) (bit a off : Nat) (code : BitVec 2),
    (c = .white ∧ bit = 0 ∧ code = 0b00) ∨ (c = .black ∧ bit = 1 ∧ code = 0b01) ∨
      (c = .red ∧ bit = 2 ∧ code = 0b10) ∨ (c = .yellow ∧ bit = 3 ∧ code = 0b10) →
    a = (y.toNat * s.fsWidth.toNat + x.toNat) * 2 / 8 → off = (y.toNat * s.fsWidth.toNat + x.toNat) * 2 % 8 →
    s.fsValid = true → x.toNat < s.fsWidth.toNat → y.toNat < s.fsHeight.toNat → s.colorcap.getLsbD bit = true →
    a < s.fsBytelen.toNat →
    ∃ t, exec (.setPixel x y c) s = .next t ∧ t = ended { s with buf := t.buf } 0 0 ∧
      (∀ i, i < 8 → (t.readByte a).getLsbD i =
        if i = off then code.getLsbD 0 else if i = off + 1 then code.getLsbD 1 else (s.readByte a).getLsbD i) ∧
      ∀ b, b ≠ a → t.readByte b = s.readByte b

/-- 40_pixel_codec R138: what a stored code decodes to (yellow first where red and yellow are both enabled, 10_state R28;
where neither is, the rule states nothing and entry 22 chooses). 95_test_vectors L1.1: after a SET_PIXEL answered OK the
pixel reads as its colour's code, whatever it was, and, red and yellow not being enabled together, decodes to that
colour; every other pixel of the image reads as before. -/
def Obligations.SetPixelReadsBack : Prop :=
  (∀ s : State,
    s.colourOf 0b00 = some .white ∧ s.colourOf 0b01 = some .black ∧ s.colourOf 0b11 = none ∧
    (s.colorcap.getLsbD 3 = true → s.colourOf 0b10 = some .yellow) ∧
    (s.colorcap.getLsbD 3 = false → s.colorcap.getLsbD 2 = true → s.colourOf 0b10 = some .red)) ∧
  ∀ (s t : State) (x y : Half) (c : Colour),
    exec (.setPixel x y c) s = .next t → t.result = 0 →
    t.pixelCode x.toNat y.toNat = codeOf c ∧
    (s.colorcap.getLsbD 2 = false ∨ s.colorcap.getLsbD 3 = false → t.pixelColour x.toNat y.toNat = some c) ∧
    ∀ x' y', x' < s.fsWidth.toNat → (x', y') ≠ (x.toNat, y.toNat) → t.pixelCode x' y' = s.pixelCode x' y'

/-- 40_pixel_codec R135: setting a pixel to the same colour twice, or to another colour in between, leaves every
byte as a single setting leaves it. -/
def Obligations.SetPixelIsIdempotent : Prop :=
  ∀ (s t u v : State) (x y : Half) (c d : Colour),
    exec (.setPixel x y c) s = .next t → t.result = 0 →
    exec (.setPixel x y d) t = .next u → exec (.setPixel x y c) u = .next v →
    v.result = 0 ∧ ∀ a, v.readByte a = t.readByte a

/-- 20_memory R61, R67: a field is at an even offset of at most 6, inside one byte; every pixel of an image lies
below the bytes the image needs; and two pixels of an image never share a field. -/
def Obligations.PixelFieldsFitAndDiffer : Prop :=
  ∀ w h x y x' y' : Nat, x < w → y < h → x' < w →
    offOf w x y % 2 = 0 ∧ offOf w x y ≤ 6 ∧ byteOf w x y < bytesNeeded w h ∧
    (byteOf w x y = byteOf w x' y' ∧ offOf w x y = offOf w x' y' → x = x' ∧ y = y')

/-- 30_encoding R104: `pair` keeps bits 9:0 of its argument and no other, so it tells 0 to 1023 apart and repeats
after 1024; its first byte is not 0 from 4 to 1023; and the values the rule lists, with a shift of 8 as well. -/
def Obligations.PairKeepsTenBits : Prop :=
  (∀ v, pair v = pairOf v) ∧ (∀ v, pair v = pair (v % 1024)) ∧
  (∀ u v, u < 1024 → v < 1024 → pair u = pair v → u = v) ∧
  (∀ v, 4 ≤ v → v ≤ 1023 → (pair v).head? ≠ some 0) ∧
  pair 4 = [0x01, 0x04] ∧ pair 300 = [0x4B, 0x2C] ∧ pair 299 = [0x4A, 0x2B] ∧ pair 250 = [0x3E, 0xFA] ∧
  pair 249 = [0x3E, 0xF9] ∧ pair 0 = [0x00, 0x00] ∧ pairWith 8 300 = [0x01, 0x2C] ∧ pairWith 8 299 = [0x01, 0x2B] ∧
  pairWith 8 250 = [0x00, 0xFA] ∧ pairWith 8 249 = [0x00, 0xF9] ∧ pairWith 8 0 = [0x00, 0x00]

/-- 70_reset_and_hazards R350: a pixel in a column at or beyond 8 * W8 is stored and never transmitted: setting it
changes no row that is sent. -/
def Obligations.LastColumnsAreNeverSent : Prop :=
  ∀ (s t : State) (x y : Half) (c : Colour),
    exec (.setPixel x y c) s = .next t → 8 * (s.fsWidth.toNat / 8) ≤ x.toNat →
    ∀ r, t.bwRow r = s.bwRow r ∧ t.colorRow r = s.colorRow r

/-- 20_memory R70 with ROW_MSB_FIRST true: each row has W8 bytes, and bit 7 - i of byte j is the low bit (black and
white row) or the high bit (colour row) of the code of pixel 8j + i. -/
def Obligations.RowsHoldThePixelBits : Prop :=
  ∀ (s : State) (r : Nat),
    (s.bwRow r).length = s.fsWidth.toNat / 8 ∧ (s.colorRow r).length = s.fsWidth.toNat / 8 ∧
    ∀ j i, j < s.fsWidth.toNat / 8 → i < 8 →
      (∃ b, (s.bwRow r)[j]? = some b ∧ b.getLsbD (7 - i) = (s.pixelCode (8 * j + i) r).getLsbD 0) ∧
      (∃ b, (s.colorRow r)[j]? = some b ∧ b.getLsbD (7 - i) = (s.pixelCode (8 * j + i) r).getLsbD 1)

/-! ### Panel commands -/

/-- The sends with a fixed payload (43_register_driver R191, R192, R194 to R201; 44_panel_sequencer R252): with
every call answered OK, exactly the four calls of form WP, and nothing else changes. -/
def Obligations.FixedPanelCommandsSend : Prop :=
  ∀ (s : State) (rest : List Code), s.answers = oks 4 rest →
    exec .pAnalogBlock s = .next (sent s (wp panel.cmdAnalogBlock panel.argAnalogBlock.toList) rest) ∧
    exec .pDigitalBlock s = .next (sent s (wp panel.cmdDigitalBlock panel.argDigitalBlock.toList) rest) ∧
    exec .pGateVoltage s = .next (sent s (wp panel.cmdGateVoltage panel.argGateVoltage.toList) rest) ∧
    exec .pSourceVoltage s = .next (sent s (wp panel.cmdSourceVoltage panel.argSourceVoltage.toList) rest) ∧
    exec .pDummyLine s = .next (sent s (wp panel.cmdDummyLine panel.argDummyLine.toList) rest) ∧
    exec .pGateLineWidth s = .next (sent s (wp panel.cmdGateLineWidth panel.argGateLineWidth.toList) rest) ∧
    exec .pDataEntryMode s = .next (sent s (wp panel.cmdDataEntryMode panel.argDataEntryMode.toList) rest) ∧
    exec .pVcom s = .next (sent s (wp panel.cmdVcom panel.argVcom.toList) rest) ∧
    exec .pBorder1 s = .next (sent s (wp panel.cmdBorder1 panel.argBorder1.toList) rest) ∧
    exec .pBorder2 s = .next (sent s (wp panel.cmdBorder2 panel.argBorder2.toList) rest) ∧
    exec .pUpdateSeq s = .next (sent s (wp panel.cmdUpdateSeq [panel.argUpdateSeq]) rest)

/-- 44_panel_sequencer R235, R253: the two command-only sends make the two calls of form W0. -/
def Obligations.CommandOnlySends : Prop :=
  ∀ (s : State) (rest : List Code), s.answers = oks 2 rest →
    exec .pSwReset s = .next (sent s (w0 panel.cmdSwReset) rest) ∧
    exec .pTrigger s = .next (sent s (w0 panel.cmdTrigger) rest)

/-- 43_register_driver R193, R206 to R209: the sends whose payload is made from the dimensions or the row. -/
def Obligations.DimensionSends : Prop :=
  ∀ (s : State) (rest : List Code), s.answers = oks 4 rest →
    exec .pGateSetting s = .next (sent s (wp panel.cmdGateSetting (pairOf s.fsHeight.toNat)) rest) ∧
    (8 ≤ s.fsWidth.toNat →
      exec .pRamXRange s =
        .next (sent s (wp panel.cmdRamXRange [0, BitVec.ofNat 8 (s.fsWidth.toNat / 8 - 1)]) rest)) ∧
    (1 ≤ s.fsHeight.toNat →
      exec .pRamYRange s =
        .next (sent s (wp panel.cmdRamYRange (pairOf 0 ++ pairOf (s.fsHeight.toNat - 1))) rest)) ∧
    exec .pRamXPtr s = .next (sent s (wp panel.cmdRamXPtr [0]) rest) ∧
    exec .pRamYPtr s = .next (sent s (wp panel.cmdRamYPtr (pairOf s.seq.row.toNat)) rest)

/-- Where 44_panel_sequencer R232 gives the dimensions no meaning the sends that would have a range ending below 0 or
an empty row are refused, whatever the answers (the model's choice, entries 12 and 13). -/
def Obligations.SendsWithoutAMeaningAreRefused : Prop :=
  ∀ s : State,
    (s.fsWidth.toNat < 8 → exec .pRamXRange s = .refused .dimensionsNotAdmitted) ∧
    (s.fsHeight.toNat = 0 → exec .pRamYRange s = .refused .dimensionsNotAdmitted) ∧
    (s.fsWidth.toNat < 8 → exec .pWriteBw s = .refused .emptyPayload)

/-- 43_register_driver R202: the override is sent for yellow, or else for red on the wide-format product, and not at
all otherwise. -/
def Obligations.SourceOverrideCondition : Prop :=
  ∀ (s : State) (rest : List Code), s.answers = oks 4 rest →
    (s.colorcap.getLsbD 3 = true →
      exec .pSourceOverride s =
        .next (sent s (wp panel.cmdSourceVoltage panel.argSourceOverrideYellow.toList) rest)) ∧
    (s.colorcap.getLsbD 3 = false → s.colorcap.getLsbD 2 = true → s.product = 0 →
      exec .pSourceOverride s =
        .next (sent s (wp panel.cmdSourceVoltage panel.argSourceOverrideRed.toList) rest)) ∧
    (s.colorcap.getLsbD 3 = false → s.colorcap.getLsbD 2 = false ∨ s.product ≠ 0 →
      exec .pSourceOverride s = .next s)

/-- 43_register_driver R204: the waveform table, yellow before red before black and white. -/
def Obligations.LutPriority : Prop :=
  ∀ (s : State) (rest : List Code), s.answers = oks 4 rest →
    (s.colorcap.getLsbD 3 = true →
      exec .pSetLut s = .next (sent s (wp panel.cmdSetLut panel.lutYellow.toList) rest)) ∧
    (s.colorcap.getLsbD 3 = false → s.colorcap.getLsbD 2 = true →
      exec .pSetLut s = .next (sent s (wp panel.cmdSetLut panel.lutRed.toList) rest)) ∧
    (s.colorcap.getLsbD 3 = false → s.colorcap.getLsbD 2 = false →
      exec .pSetLut s = .next (sent s (wp panel.cmdSetLut panel.lutBw.toList) rest))

/-- 44_panel_sequencer R248, R249: the black and white row is sent for every row, the colour row only when it has a
byte that is not 0. -/
def Obligations.RowWrites : Prop :=
  ∀ (s : State) (rest : List Code), s.answers = oks 4 rest →
    (8 ≤ s.fsWidth.toNat →
      exec .pWriteBw s = .next (sent s (wp panel.cmdWriteBw (s.bwRow s.seq.row.toNat)) rest)) ∧
    ((∃ b ∈ s.colorRow s.seq.row.toNat, b ≠ 0) →
      exec .pWriteColor s = .next (sent s (wp panel.cmdWriteColor (s.colorRow s.seq.row.toNat)) rest)) ∧
    ((∀ b ∈ s.colorRow s.seq.row.toNat, b = 0) → exec .pWriteColor s = .next s)

/-- 44_panel_sequencer R256: the Sleep send, and PSTATE ASLEEP when its fourth call is answered OK. -/
def Obligations.DeepSleepPutsThePanelToSleep : Prop :=
  ∀ (s : State) (rest : List Code), s.answers = oks 4 rest →
    exec .pDeepSleep s =
      .next { sent s (wp panel.cmdDeepSleep [panel.argDeepSleep]) rest with pstate := .asleep }

/-- 42_protocol_framer R173, 60_exceptions R311, R312: in every panel command the first call that is not answered
OK is the last one made; the operation ends with that code, values 10 to 15 included, and PSTATE becomes
INDETERMINATE in the phases from Reset to Sleep; nothing else changes. The three commands that have no meaning for some
dimensions are taken where they have one. -/
def Obligations.SendsFailFast : Prop :=
  ∀ (c : PanelCmd) (s : State) (done : List Call) (call : Call) (after : List Call) (a : Code) (rest : List Code),
    (c = .ramXRange ∨ c = .writeBw → 8 ≤ s.fsWidth.toNat) → (c = .ramYRange → 1 ≤ s.fsHeight.toNat) →
    PanelCmd.calls c s = done ++ call :: after → a ≠ 0 → s.answers = oks done.length (a :: rest) →
    exec c.instr s =
      .next (afterRun s (done ++ [call]) rest
        (pstateAfterAbort s) a)

/-- 60_exceptions R307: a panel command whose answers run out has made the calls answered and one more, and waits
in that one with the position at it. The model's convention for "not answered" is entry 3. -/
def Obligations.SendsWaitForAnswers : Prop :=
  ∀ (c : PanelCmd) (s : State) (done : List Call) (call : Call) (after : List Call),
    (c = .ramXRange ∨ c = .writeBw → 8 ≤ s.fsWidth.toNat) → (c = .ramYRange → 1 ≤ s.fsHeight.toNat) →
    PanelCmd.calls c s = done ++ call :: after → s.answers = oks done.length [] →
    exec c.instr s =
      .next { s with
              trace := s.trace ++ (done ++ [call]).map fun d => ⟨d, s.ctx⟩
              answers := []
              waiting := true
              seq := { s.seq with k := s.seq.k + done.length } }

/-! ### Update -/

/-- 44_panel_sequencer R231: UPDATE without a Frame Store answers NotConfigured, with too short a buffer Failure,
both before any call. -/
def Obligations.UpdatePreconditions : Prop :=
  ∀ s : State,
    (s.fsValid = false → exec .update s = .next (ended (latched s 6) 6 0)) ∧
    (s.fsValid = true → s.fsBytelen.toNat < (s.fsWidth.toNat * s.fsHeight.toNat * 2 + 7) / 8 →
      exec .update s = .next (ended (latched s 6) 8 0))

/-- 44_panel_sequencer R232: UPDATE with dimensions outside the admitted range has no meaning and is refused (the
model's form of it is entry 12). -/
def Obligations.UpdateOutsideTheDimensionsIsRefused : Prop :=
  ∀ s : State,
    s.fsValid = true → (s.fsWidth.toNat * s.fsHeight.toNat * 2 + 7) / 8 ≤ s.fsBytelen.toNat →
    s.fsWidth.toNat < 8 ∨ 2055 < s.fsWidth.toNat ∨ s.fsHeight.toNat = 0 →
    exec .update s = .refused .dimensionsNotAdmitted

/-- 44_panel_sequencer R230: with the preconditions met, the full frame type and every call answered OK, UPDATE
makes exactly the calls of its six phases in order, ends with OK and the panel asleep, and changes no register, no
flag and no byte of the buffer. -/
def Obligations.UpdateRunsTheWholeScript : Prop :=
  ∀ (s : State) (rest : List Code),
    updatable s → s.frametype = 0 → s.answers = oks (updateScript s).length rest →
    exec .update s = .next (afterRun (latched s 6) (updateScript s) rest .asleep 0)

/-- 44_panel_sequencer R258: the first call of an update that is not answered OK is the last one made; the update
ends with that code, PSTATE is INDETERMINATE, and no register, flag or byte of the buffer has changed. With another
frame type the same holds of every call before the check (60_exceptions R310 (d)). -/
def Obligations.UpdateStopsAtTheFirstFailure : Prop :=
  ∀ (s : State) (done : List Call) (call : Call) (after : List Call) (a : Code) (rest : List Code),
    updatable s → possibleCalls s = done ++ call :: after → a ≠ 0 → s.answers = oks done.length (a :: rest) →
    exec .update s = .next (afterRun (latched s 6) (done ++ [call]) rest .indeterminate a)

/-- 44_panel_sequencer R237 (95_test_vectors L1.8): a first poll that answers a code other than OK, such as
TimedOut, ends the update with that code after the seven calls of the Reset phase: one bus write, and none after
the poll. -/
def Obligations.FirstPollFailureStopsTheBus : Prop :=
  ∀ (s : State) (a : Code) (rest : List Code),
    updatable s → a ≠ 0 → s.answers = oks 6 (a :: rest) →
    exec .update s = .next (afterRun (latched s 6) resetScript rest .indeterminate a) ∧
    (resetScript.filter isBusWrite).length = 1

/-- 44_panel_sequencer R244: with another frame type UPDATE makes the calls of the Reset phase and of the register
sends, and then answers NotAvailable, the LUT unsent and the panel not put to sleep. -/
def Obligations.OtherFrameTypesAbort : Prop :=
  ∀ (s : State) (rest : List Code),
    updatable s → s.frametype ≠ 0 → s.answers = oks (resetScript ++ registerScript s).length rest →
    exec .update s = .next (afterRun (latched s 6) (resetScript ++ registerScript s) rest .indeterminate 1)

/-- 44_panel_sequencer R259: the size of a successful update: its capability calls, its bus writes and its sends (each
send has exactly one Data/Command line low). -/
def Obligations.UpdateSize : Prop :=
  ∀ (s : State) (ov : Nat) (rest : List Code),
    (ov = 1 ∧ (s.colorcap.getLsbD 3 = true ∨ s.colorcap.getLsbD 2 = true ∧ s.product = 0)) ∨
      (ov = 0 ∧ s.colorcap.getLsbD 3 = false ∧ (s.colorcap.getLsbD 2 = false ∨ s.product ≠ 0)) →
    updatable s → s.frametype = 0 →
    s.answers = oks (75 + 4 * ov + 12 * s.fsHeight.toNat + 12 * coloredRows s) rest →
    ∃ (t : State) (calls : List Call),
      exec .update s = .next t ∧ t.result = 0 ∧ t.answers = rest ∧
      t.trace = s.trace ++ calls.map (fun c => ⟨c, s.ctx⟩) ∧
      calls.length = 75 + 4 * ov + 12 * s.fsHeight.toNat + 12 * coloredRows s ∧
      (calls.filter isBusWrite).length = 34 + 2 * ov + 6 * s.fsHeight.toNat + 6 * coloredRows s ∧
      (calls.filter fun c => c = .gpioWrite .dc .low).length =
        18 + ov + 3 * s.fsHeight.toNat + 3 * coloredRows s

/-- 20_memory R63, 70_reset_and_hazards R341: however an UPDATE goes, whole, aborted or waiting, no register, no
flag but PSTATE and no byte of the buffer changes. -/
def Obligations.UpdateNeverWritesTheStore : Prop :=
  ∀ s t : State, exec .update s = .next t → SequencerFrame (latched s 6) t

/-- 44_panel_sequencer R262: the modes that are not implemented answer NotAvailable and change nothing else; the full
mode does what UPDATE does (the latch holding its own op code), which with the preconditions met is the whole
update. -/
def Obligations.UpdateByModeRunsOnlyTheFullMode : Prop :=
  ∀ s : State,
    (∀ m : FrameType, m ≠ .alwaysFull → exec (.updateByMode m) s = .next (ended s 1 0)) ∧
    (∀ t, exec .update s = .next t → exec (.updateByMode .alwaysFull) s = .next (latched t 7)) ∧
    (∀ r, exec .update s = .refused r → exec (.updateByMode .alwaysFull) s = .refused r) ∧
    (∀ rest : List Code, updatable s → s.frametype = 0 → s.answers = oks (updateScript s).length rest →
      exec (.updateByMode .alwaysFull) s = .next (afterRun (latched s 7) (updateScript s) rest .asleep 0))

/-- 44_panel_sequencer R260: with white enabled and a buffer long enough CLEAR sets every pixel to white, keeping every bit
that belongs to no pixel (20_memory R68), and then does what one UPDATE of the white image does, whatever that is: whole,
stopped at a call, another frame type, or refused; the buffer stays white (R260 (d)). With the update's preconditions met,
the full frame type and every call answered OK it is the whole update. -/
def Obligations.ClearWhitensAndUpdates : Prop :=
  ∀ s : State,
    s.fsValid = true → s.colorcap.getLsbD 0 = true →
    (s.fsWidth.toNat * s.fsHeight.toNat * 2 + 7) / 8 ≤ s.fsBytelen.toNat →
    ∃ u : State, u = { s with buf := u.buf } ∧
      (∀ x y, x < s.fsWidth.toNat → y < s.fsHeight.toNat → u.pixelCode x y = 0) ∧
      (∀ a i, i < 8 → s.fsWidth.toNat * s.fsHeight.toNat * 2 ≤ 8 * a + i →
        (u.readByte a).getLsbD i = (s.readByte a).getLsbD i) ∧
      (∀ t, exec .update u = .next t → exec .clear s = .next (latched t 8) ∧ ∀ a, t.readByte a = u.readByte a) ∧
      (∀ r, exec .update u = .refused r → exec .clear s = .refused r) ∧
      ∀ rest : List Code, updatable s → s.frametype = 0 →
        s.answers = oks (7 + (initScript s).length + 8 + 12 * s.fsHeight.toNat + 12) rest →
        exec .clear s = .next (afterRun (latched u 8) (updateScript u) rest .asleep 0)

/-- 44_panel_sequencer R260: CLEAR without a Frame Store answers NotConfigured; with white disabled and at least one
pixel it answers NotAvailable, no byte written and no call made. -/
def Obligations.ClearChecks : Prop :=
  ∀ s : State,
    (s.fsValid = false → exec .clear s = .next (ended s 6 0)) ∧
    (s.fsValid = true → 1 ≤ s.fsWidth.toNat → 1 ≤ s.fsHeight.toNat → s.colorcap.getLsbD 0 = false →
      exec .clear s = .next (ended (latched s 8) 1 0))

/-- 44_panel_sequencer R260 (c): with a buffer too short for its dimensions CLEAR stops with Failure at the first pixel
beyond it; the pixels before are white, every byte beyond is as before, and no call is made. -/
def Obligations.ClearStopsAtAShortBuffer : Prop :=
  ∀ s : State,
    s.fsValid = true → s.colorcap.getLsbD 0 = true →
    s.fsBytelen.toNat < (s.fsWidth.toNat * s.fsHeight.toNat * 2 + 7) / 8 →
    ∃ t, exec .clear s = .next t ∧ t = ended (latched { s with buf := t.buf } 8) 8 0 ∧
      (∀ x y, x < s.fsWidth.toNat → y < s.fsHeight.toNat →
        (y * s.fsWidth.toNat + x) * 2 / 8 < s.fsBytelen.toNat → t.pixelCode x y = 0) ∧
      ∀ a, s.fsBytelen.toNat ≤ a → t.readByte a = s.readByte a

/-! ### Setup -/

/-- 45_session_and_host_port R274, R277: SETUP with every call answered OK makes its five calls and the seven of the
Reset phase, leaves the panel awake, and creates the Frame Store of the product, or keeps the one there is with
its image. -/
def Obligations.SetupCreatesTheSession : Prop :=
  ∀ (s : State) (rest : List Code), s.answers = oks 12 rest →
    (s.fsValid = true →
      exec .setup s = .next (afterRun (latched s 1) (setupScript ++ resetScript) rest .awake 0)) ∧
    (s.fsValid = false → ∀ w h n : Nat,
      (s.product = 0 ∧ w = 400 ∧ h = 300 ∧ n = 30000) ∨ (s.product = 1 ∧ w = 122 ∧ h = 250 ∧ n = 7625) →
      ∃ t, exec .setup s = .next t ∧
        t = afterRun
          (latched { s with
                     buf := t.buf, fsWidth := BitVec.ofNat 16 w, fsHeight := BitVec.ofNat 16 h,
                     fsBytelen := BitVec.ofNat 16 n, fsValid := true, fsExternal := false } 1)
          (setupScript ++ resetScript) rest .awake 0 ∧
        (∀ a, a < n → t.readByte a = 0) ∧ ∀ a, n ≤ a → t.readByte a = s.readByte a)

/-- 45_session_and_host_port R274, R276: SETUP of a custom or unknown product without a supplied Frame Store answers
NotAvailable after its first five calls; no Frame Store exists and PSTATE is as it was, no Reset phase having
started (60_exceptions R312). -/
def Obligations.SetupWithoutProfileFails : Prop :=
  ∀ (s : State) (rest : List Code),
    s.fsValid = false → s.product = 2 ∨ s.product = 3 → s.answers = oks 5 rest →
    exec .setup s = .next (afterRun (latched s 1) setupScript rest s.pstate 1)

/-- 45_session_and_host_port R274, 60_exceptions R312: the first call of SETUP that is not answered OK is the last one
made. In its first five calls, whatever the product, nothing else has changed and PSTATE is as it was. In its Reset phase
PSTATE is INDETERMINATE; a Frame Store that was there is kept with its image (R277), and where there was none the one that
ALLOCATE created stays: the dimensions of the product's profile, FS_EXTERNAL 0, its bytes zero and the others as they
were. -/
def Obligations.SetupStopsAtTheFirstFailure : Prop :=
  ∀ (s : State) (done : List Call) (call : Call) (after : List Call) (a : Code) (rest : List Code),
    setupScript ++ resetScript = done ++ call :: after → a ≠ 0 → s.answers = oks done.length (a :: rest) →
    (done.length < 5 → exec .setup s = .next (afterRun (latched s 1) (done ++ [call]) rest s.pstate a)) ∧
    (5 ≤ done.length → s.fsValid = true →
      exec .setup s = .next (afterRun (latched s 1) (done ++ [call]) rest .indeterminate a)) ∧
    (5 ≤ done.length → s.fsValid = false → ∀ w h n : Nat,
      (s.product = 0 ∧ w = 400 ∧ h = 300 ∧ n = 30000) ∨ (s.product = 1 ∧ w = 122 ∧ h = 250 ∧ n = 7625) →
      ∃ t, exec .setup s = .next t ∧
        t = afterRun
          (latched { s with
                     buf := t.buf, fsWidth := BitVec.ofNat 16 w, fsHeight := BitVec.ofNat 16 h,
                     fsBytelen := BitVec.ofNat 16 n, fsValid := true, fsExternal := false } 1)
          (done ++ [call]) rest .indeterminate a ∧
        (∀ b, b < n → t.readByte b = 0) ∧ ∀ b, n ≤ b → t.readByte b = s.readByte b)

/-! ### Invariants of every step -/

/-- The state after block reset meets the invariant. -/
def Obligations.ResetMeetsTheInvariant : Prop := Invariant State.reset

/-- Every step keeps the invariant: the buffer's canonical form, FS_EXTERNAL only with FS_VALID (41_frame_store
R150), a position that names a call (10_state R24), an update only with its preconditions met (44_panel_sequencer
R231), and PSTATE as the phase says (10_state R33). -/
def Obligations.StepKeepsTheInvariant : Prop :=
  ∀ s t : State, Invariant s → step s = .next t → Invariant t

/-- From a state that meets the invariant no step is a fault, and a step in an operation in progress is always a next
state, but for CLEAR's pixel loop, behind which an update outside the admitted dimensions is refused (44_panel_sequencer
R232; entry 12). -/
def Obligations.NoFaultUnderTheInvariant : Prop :=
  ∀ s : State, Invariant s →
    NoFault (step s) ∧
    (s.seq.phase ≠ .idle →
      (∃ t, step s = .next t) ∨ (s.seq.phase = .localPixels ∧ step s = .refused .dimensionsNotAdmitted))

/-- 44_panel_sequencer R230, R246: in an operation in progress a step stays in its phase, enters the next one, or
ends the operation; and inside Row Streaming it stays in its row or goes on to the next. What may follow LOCAL is what
45_session_and_host_port R274, 41_frame_store R151 and 44_panel_sequencer R260 let follow. -/
def Obligations.PhasesAreStrictlySequential : Prop :=
  ∀ s t : State, s.seq.phase ≠ .idle → step s = .next t →
    s.seq.phase.follows t.seq.phase = true ∧
    (s.seq.phase = .rows → t.seq.phase = .rows → t.seq.row = s.seq.row ∨ t.seq.row.toNat = s.seq.row.toNat + 1)

/-- 10_state R20, 20_memory R76: a step adds at most one call to the end of the trace and takes at most one answer from the
front, and the call it adds carries the value of CTX (10_state R32). -/
def Obligations.TraceOnlyGrows : Prop :=
  ∀ s t : State, step s = .next t →
    ∃ (calls : List Call) (used : List Code),
      t.trace = s.trace ++ calls.map (fun c => ⟨c, s.ctx⟩) ∧ calls.length ≤ 1 ∧
      s.answers = used ++ t.answers ∧ used.length ≤ 1

/-- 45_session_and_host_port R270, 60_exceptions R307: a host operation, taken as far as `exec` takes it (entry 5), has
ended, with `seq` idle and RESULT the code of the response, unless it waits for an answer of the environment; that it
waits where no answer is at hand is entry 3. -/
def Obligations.OperationsEndOrWait : Prop :=
  ∀ (i : Instr) (s t : State), i.panelCmd? = none → exec i s = .next t →
    (t.seq = ⟨.idle, 0, 0⟩ ∧ t.waiting = false ∧ ∃ data, t.response = some ⟨t.result, data⟩) ∨
    (t.waiting = true ∧ t.answers = [] ∧ t.seq.phase ≠ .idle)

/-! ### One core step -/

/-- 10_state R20, R24: a core step in an operation in progress, no answer being waited for, makes exactly the call that the
position names, and no other. Answered OK, the position moves on; answered otherwise, the operation ends with that code
(60_exceptions R306, R312); not answered, the core waits in it (R307; entry 3). The premise excludes the places where the
model makes no call: a send without a meaning (entries 12 and 13) and, in a clause of its own, the frame-type check
(44_panel_sequencer R244; entry 15). The local work of ALLOCATE and CLEAR makes no call. -/
def Obligations.StepMakesOneCall : Prop :=
  (∀ (s : State) (c : Call),
    s.seq.phase ≠ .idle → s.waiting = false → (phaseCalls s)[s.seq.k]? = some c →
    (∀ d, findItem s (phaseItems s) s.seq.k = some (.send d, 0) →
      (d = .setLut → s.frametype = 0) ∧ (d = .ramXRange ∨ d = .writeBw → 8 ≤ s.fsWidth.toNat) ∧
      (d = .ramYRange → 1 ≤ s.fsHeight.toNat)) →
    (s.answers = [] → step s = .next { s with trace := s.trace ++ [⟨c, s.ctx⟩], waiting := true }) ∧
    (∀ rest, s.answers = 0 :: rest → s.seq.k + 1 < (phaseCalls s).length →
      step s = .next (sent s [c] rest)) ∧
    (∀ rest, s.answers = 0 :: rest → s.seq.k + 1 = (phaseCalls s).length →
      step s = .next (afterLast { s with trace := s.trace ++ [⟨c, s.ctx⟩], answers := rest })) ∧
    ∀ (a : Code) (rest : List Code), a ≠ 0 → s.answers = a :: rest →
      step s = .next (afterRun s [c] rest (pstateAfterAbort s) a)) ∧
  (∀ s : State,
    s.seq.phase ≠ .idle → s.waiting = false → findItem s (phaseItems s) s.seq.k = some (.send .setLut, 0) →
    s.frametype ≠ 0 → step s = .next (afterRun s [] s.answers .indeterminate 1)) ∧
  ∀ s t : State,
    s.seq.phase = .localFill ∨ s.seq.phase = .localPixels → s.waiting = false → step s = .next t →
    t.trace = s.trace ∧ t.answers = s.answers
end

