-- ==== Sys2Proof/Laws/State.lean ====
section
/-! SUPPORT. One lemma for each field after each named update of the state, true by rfl. -/

namespace Sys2Proof.Machine

/-! ### `State.finish` -/

@[simp] theorem State.finish_product (s : State) (code : Code) (data : DataWord) : (s.finish code data).product = s.product := rfl
@[simp] theorem State.finish_colorcap (s : State) (code : Code) (data : DataWord) : (s.finish code data).colorcap = s.colorcap := rfl
@[simp] theorem State.finish_frametype (s : State) (code : Code) (data : DataWord) : (s.finish code data).frametype = s.frametype := rfl
@[simp] theorem State.finish_fsWidth (s : State) (code : Code) (data : DataWord) : (s.finish code data).fsWidth = s.fsWidth := rfl
@[simp] theorem State.finish_fsHeight (s : State) (code : Code) (data : DataWord) : (s.finish code data).fsHeight = s.fsHeight := rfl
@[simp] theorem State.finish_fsBytelen (s : State) (code : Code) (data : DataWord) : (s.finish code data).fsBytelen = s.fsBytelen := rfl
@[simp] theorem State.finish_user0 (s : State) (code : Code) (data : DataWord) : (s.finish code data).user0 = s.user0 := rfl
@[simp] theorem State.finish_user1 (s : State) (code : Code) (data : DataWord) : (s.finish code data).user1 = s.user1 := rfl
@[simp] theorem State.finish_ctx (s : State) (code : Code) (data : DataWord) : (s.finish code data).ctx = s.ctx := rfl
@[simp] theorem State.finish_fsValid (s : State) (code : Code) (data : DataWord) : (s.finish code data).fsValid = s.fsValid := rfl
@[simp] theorem State.finish_fsExternal (s : State) (code : Code) (data : DataWord) : (s.finish code data).fsExternal = s.fsExternal := rfl
@[simp] theorem State.finish_activeValid (s : State) (code : Code) (data : DataWord) : (s.finish code data).activeValid = s.activeValid := rfl
@[simp] theorem State.finish_pstate (s : State) (code : Code) (data : DataWord) : (s.finish code data).pstate = s.pstate := rfl
@[simp] theorem State.finish_result (s : State) (code : Code) (data : DataWord) : (s.finish code data).result = code := rfl
@[simp] theorem State.finish_seq (s : State) (code : Code) (data : DataWord) : (s.finish code data).seq = Seq.idle := rfl
@[simp] theorem State.finish_latch (s : State) (code : Code) (data : DataWord) : (s.finish code data).latch = s.latch := rfl
@[simp] theorem State.finish_buf (s : State) (code : Code) (data : DataWord) : (s.finish code data).buf = s.buf := rfl
@[simp] theorem State.finish_response (s : State) (code : Code) (data : DataWord) : (s.finish code data).response = some ⟨code, data⟩ := rfl
@[simp] theorem State.finish_waiting (s : State) (code : Code) (data : DataWord) : (s.finish code data).waiting = false := rfl
@[simp] theorem State.finish_requests (s : State) (code : Code) (data : DataWord) : (s.finish code data).requests = s.requests := rfl
@[simp] theorem State.finish_answers (s : State) (code : Code) (data : DataWord) : (s.finish code data).answers = s.answers := rfl
@[simp] theorem State.finish_trace (s : State) (code : Code) (data : DataWord) : (s.finish code data).trace = s.trace := rfl

/-! ### `State.abort` -/

@[simp] theorem State.abort_product (s : State) (code : Code) : (s.abort code).product = s.product := rfl
@[simp] theorem State.abort_colorcap (s : State) (code : Code) : (s.abort code).colorcap = s.colorcap := rfl
@[simp] theorem State.abort_frametype (s : State) (code : Code) : (s.abort code).frametype = s.frametype := rfl
@[simp] theorem State.abort_fsWidth (s : State) (code : Code) : (s.abort code).fsWidth = s.fsWidth := rfl
@[simp] theorem State.abort_fsHeight (s : State) (code : Code) : (s.abort code).fsHeight = s.fsHeight := rfl
@[simp] theorem State.abort_fsBytelen (s : State) (code : Code) : (s.abort code).fsBytelen = s.fsBytelen := rfl
@[simp] theorem State.abort_user0 (s : State) (code : Code) : (s.abort code).user0 = s.user0 := rfl
@[simp] theorem State.abort_user1 (s : State) (code : Code) : (s.abort code).user1 = s.user1 := rfl
@[simp] theorem State.abort_ctx (s : State) (code : Code) : (s.abort code).ctx = s.ctx := rfl
@[simp] theorem State.abort_fsValid (s : State) (code : Code) : (s.abort code).fsValid = s.fsValid := rfl
@[simp] theorem State.abort_fsExternal (s : State) (code : Code) : (s.abort code).fsExternal = s.fsExternal := rfl
@[simp] theorem State.abort_activeValid (s : State) (code : Code) : (s.abort code).activeValid = s.activeValid := rfl
@[simp] theorem State.abort_pstate (s : State) (code : Code) : (s.abort code).pstate = if s.seq.phase.panelSide then .indeterminate else s.pstate := rfl
@[simp] theorem State.abort_result (s : State) (code : Code) : (s.abort code).result = code := rfl
@[simp] theorem State.abort_seq (s : State) (code : Code) : (s.abort code).seq = Seq.idle := rfl
@[simp] theorem State.abort_latch (s : State) (code : Code) : (s.abort code).latch = s.latch := rfl
@[simp] theorem State.abort_buf (s : State) (code : Code) : (s.abort code).buf = s.buf := rfl
@[simp] theorem State.abort_response (s : State) (code : Code) : (s.abort code).response = some ⟨code, 0⟩ := rfl
@[simp] theorem State.abort_waiting (s : State) (code : Code) : (s.abort code).waiting = false := rfl
@[simp] theorem State.abort_requests (s : State) (code : Code) : (s.abort code).requests = s.requests := rfl
@[simp] theorem State.abort_answers (s : State) (code : Code) : (s.abort code).answers = s.answers := rfl
@[simp] theorem State.abort_trace (s : State) (code : Code) : (s.abort code).trace = s.trace := rfl

/-! ### `State.emit` -/

@[simp] theorem State.emit_product (s : State) (c : Call) : (s.emit c).product = s.product := rfl
@[simp] theorem State.emit_colorcap (s : State) (c : Call) : (s.emit c).colorcap = s.colorcap := rfl
@[simp] theorem State.emit_frametype (s : State) (c : Call) : (s.emit c).frametype = s.frametype := rfl
@[simp] theorem State.emit_fsWidth (s : State) (c : Call) : (s.emit c).fsWidth = s.fsWidth := rfl
@[simp] theorem State.emit_fsHeight (s : State) (c : Call) : (s.emit c).fsHeight = s.fsHeight := rfl
@[simp] theorem State.emit_fsBytelen (s : State) (c : Call) : (s.emit c).fsBytelen = s.fsBytelen := rfl
@[simp] theorem State.emit_user0 (s : State) (c : Call) : (s.emit c).user0 = s.user0 := rfl
@[simp] theorem State.emit_user1 (s : State) (c : Call) : (s.emit c).user1 = s.user1 := rfl
@[simp] theorem State.emit_ctx (s : State) (c : Call) : (s.emit c).ctx = s.ctx := rfl
@[simp] theorem State.emit_fsValid (s : State) (c : Call) : (s.emit c).fsValid = s.fsValid := rfl
@[simp] theorem State.emit_fsExternal (s : State) (c : Call) : (s.emit c).fsExternal = s.fsExternal := rfl
@[simp] theorem State.emit_activeValid (s : State) (c : Call) : (s.emit c).activeValid = s.activeValid := rfl
@[simp] theorem State.emit_pstate (s : State) (c : Call) : (s.emit c).pstate = s.pstate := rfl
@[simp] theorem State.emit_result (s : State) (c : Call) : (s.emit c).result = s.result := rfl
@[simp] theorem State.emit_seq (s : State) (c : Call) : (s.emit c).seq = s.seq := rfl
@[simp] theorem State.emit_latch (s : State) (c : Call) : (s.emit c).latch = s.latch := rfl
@[simp] theorem State.emit_buf (s : State) (c : Call) : (s.emit c).buf = s.buf := rfl
@[simp] theorem State.emit_response (s : State) (c : Call) : (s.emit c).response = s.response := rfl
@[simp] theorem State.emit_waiting (s : State) (c : Call) : (s.emit c).waiting = s.waiting := rfl
@[simp] theorem State.emit_requests (s : State) (c : Call) : (s.emit c).requests = s.requests := rfl
@[simp] theorem State.emit_answers (s : State) (c : Call) : (s.emit c).answers = s.answers := rfl
@[simp] theorem State.emit_trace (s : State) (c : Call) : (s.emit c).trace = s.trace ++ [⟨c, s.ctx⟩] := rfl

/-! ### `State.begin` -/

@[simp] theorem State.begin_product (s : State) (op : BitVec 4) : (s.begin op).product = s.product := rfl
@[simp] theorem State.begin_colorcap (s : State) (op : BitVec 4) : (s.begin op).colorcap = s.colorcap := rfl
@[simp] theorem State.begin_frametype (s : State) (op : BitVec 4) : (s.begin op).frametype = s.frametype := rfl
@[simp] theorem State.begin_fsWidth (s : State) (op : BitVec 4) : (s.begin op).fsWidth = s.fsWidth := rfl
@[simp] theorem State.begin_fsHeight (s : State) (op : BitVec 4) : (s.begin op).fsHeight = s.fsHeight := rfl
@[simp] theorem State.begin_fsBytelen (s : State) (op : BitVec 4) : (s.begin op).fsBytelen = s.fsBytelen := rfl
@[simp] theorem State.begin_user0 (s : State) (op : BitVec 4) : (s.begin op).user0 = s.user0 := rfl
@[simp] theorem State.begin_user1 (s : State) (op : BitVec 4) : (s.begin op).user1 = s.user1 := rfl
@[simp] theorem State.begin_ctx (s : State) (op : BitVec 4) : (s.begin op).ctx = s.ctx := rfl
@[simp] theorem State.begin_fsValid (s : State) (op : BitVec 4) : (s.begin op).fsValid = s.fsValid := rfl
@[simp] theorem State.begin_fsExternal (s : State) (op : BitVec 4) : (s.begin op).fsExternal = s.fsExternal := rfl
@[simp] theorem State.begin_activeValid (s : State) (op : BitVec 4) : (s.begin op).activeValid = s.activeValid := rfl
@[simp] theorem State.begin_pstate (s : State) (op : BitVec 4) : (s.begin op).pstate = s.pstate := rfl
@[simp] theorem State.begin_result (s : State) (op : BitVec 4) : (s.begin op).result = s.result := rfl
@[simp] theorem State.begin_seq (s : State) (op : BitVec 4) : (s.begin op).seq = s.seq := rfl
@[simp] theorem State.begin_latch (s : State) (op : BitVec 4) : (s.begin op).latch = { s.latch with op := op } := rfl
@[simp] theorem State.begin_buf (s : State) (op : BitVec 4) : (s.begin op).buf = s.buf := rfl
@[simp] theorem State.begin_response (s : State) (op : BitVec 4) : (s.begin op).response = none := rfl
@[simp] theorem State.begin_waiting (s : State) (op : BitVec 4) : (s.begin op).waiting = false := rfl
@[simp] theorem State.begin_requests (s : State) (op : BitVec 4) : (s.begin op).requests = s.requests := rfl
@[simp] theorem State.begin_answers (s : State) (op : BitVec 4) : (s.begin op).answers = s.answers := rfl
@[simp] theorem State.begin_trace (s : State) (op : BitVec 4) : (s.begin op).trace = s.trace := rfl

/-! ### `State.enter` -/

@[simp] theorem State.enter_product (s : State) (ph : Phase) : (s.enter ph).product = s.product := rfl
@[simp] theorem State.enter_colorcap (s : State) (ph : Phase) : (s.enter ph).colorcap = s.colorcap := rfl
@[simp] theorem State.enter_frametype (s : State) (ph : Phase) : (s.enter ph).frametype = s.frametype := rfl
@[simp] theorem State.enter_fsWidth (s : State) (ph : Phase) : (s.enter ph).fsWidth = s.fsWidth := rfl
@[simp] theorem State.enter_fsHeight (s : State) (ph : Phase) : (s.enter ph).fsHeight = s.fsHeight := rfl
@[simp] theorem State.enter_fsBytelen (s : State) (ph : Phase) : (s.enter ph).fsBytelen = s.fsBytelen := rfl
@[simp] theorem State.enter_user0 (s : State) (ph : Phase) : (s.enter ph).user0 = s.user0 := rfl
@[simp] theorem State.enter_user1 (s : State) (ph : Phase) : (s.enter ph).user1 = s.user1 := rfl
@[simp] theorem State.enter_ctx (s : State) (ph : Phase) : (s.enter ph).ctx = s.ctx := rfl
@[simp] theorem State.enter_fsValid (s : State) (ph : Phase) : (s.enter ph).fsValid = s.fsValid := rfl
@[simp] theorem State.enter_fsExternal (s : State) (ph : Phase) : (s.enter ph).fsExternal = s.fsExternal := rfl
@[simp] theorem State.enter_activeValid (s : State) (ph : Phase) : (s.enter ph).activeValid = s.activeValid := rfl
@[simp] theorem State.enter_pstate (s : State) (ph : Phase) : (s.enter ph).pstate = s.pstate := rfl
@[simp] theorem State.enter_result (s : State) (ph : Phase) : (s.enter ph).result = s.result := rfl
@[simp] theorem State.enter_seq (s : State) (ph : Phase) : (s.enter ph).seq = ⟨ph, 0, 0⟩ := rfl
@[simp] theorem State.enter_latch (s : State) (ph : Phase) : (s.enter ph).latch = s.latch := rfl
@[simp] theorem State.enter_buf (s : State) (ph : Phase) : (s.enter ph).buf = s.buf := rfl
@[simp] theorem State.enter_response (s : State) (ph : Phase) : (s.enter ph).response = s.response := rfl
@[simp] theorem State.enter_waiting (s : State) (ph : Phase) : (s.enter ph).waiting = s.waiting := rfl
@[simp] theorem State.enter_requests (s : State) (ph : Phase) : (s.enter ph).requests = s.requests := rfl
@[simp] theorem State.enter_answers (s : State) (ph : Phase) : (s.enter ph).answers = s.answers := rfl
@[simp] theorem State.enter_trace (s : State) (ph : Phase) : (s.enter ph).trace = s.trace := rfl

/-! ### `State.enterReset` -/

@[simp] theorem State.enterReset_product (s : State) : s.enterReset.product = s.product := rfl
@[simp] theorem State.enterReset_colorcap (s : State) : s.enterReset.colorcap = s.colorcap := rfl
@[simp] theorem State.enterReset_frametype (s : State) : s.enterReset.frametype = s.frametype := rfl
@[simp] theorem State.enterReset_fsWidth (s : State) : s.enterReset.fsWidth = s.fsWidth := rfl
@[simp] theorem State.enterReset_fsHeight (s : State) : s.enterReset.fsHeight = s.fsHeight := rfl
@[simp] theorem State.enterReset_fsBytelen (s : State) : s.enterReset.fsBytelen = s.fsBytelen := rfl
@[simp] theorem State.enterReset_user0 (s : State) : s.enterReset.user0 = s.user0 := rfl
@[simp] theorem State.enterReset_user1 (s : State) : s.enterReset.user1 = s.user1 := rfl
@[simp] theorem State.enterReset_ctx (s : State) : s.enterReset.ctx = s.ctx := rfl
@[simp] theorem State.enterReset_fsValid (s : State) : s.enterReset.fsValid = s.fsValid := rfl
@[simp] theorem State.enterReset_fsExternal (s : State) : s.enterReset.fsExternal = s.fsExternal := rfl
@[simp] theorem State.enterReset_activeValid (s : State) : s.enterReset.activeValid = s.activeValid := rfl
@[simp] theorem State.enterReset_pstate (s : State) : s.enterReset.pstate = .indeterminate := rfl
@[simp] theorem State.enterReset_result (s : State) : s.enterReset.result = s.result := rfl
@[simp] theorem State.enterReset_seq (s : State) : s.enterReset.seq = ⟨.reset, 0, 0⟩ := rfl
@[simp] theorem State.enterReset_latch (s : State) : s.enterReset.latch = s.latch := rfl
@[simp] theorem State.enterReset_buf (s : State) : s.enterReset.buf = s.buf := rfl
@[simp] theorem State.enterReset_response (s : State) : s.enterReset.response = s.response := rfl
@[simp] theorem State.enterReset_waiting (s : State) : s.enterReset.waiting = s.waiting := rfl
@[simp] theorem State.enterReset_requests (s : State) : s.enterReset.requests = s.requests := rfl
@[simp] theorem State.enterReset_answers (s : State) : s.enterReset.answers = s.answers := rfl
@[simp] theorem State.enterReset_trace (s : State) : s.enterReset.trace = s.trace := rfl

/-! ### `State.accept` -/

@[simp] theorem State.accept_product (s : State) (w : RequestWord) (rest : List RequestWord) : (s.accept w rest).product = s.product := rfl
@[simp] theorem State.accept_colorcap (s : State) (w : RequestWord) (rest : List RequestWord) : (s.accept w rest).colorcap = s.colorcap := rfl
@[simp] theorem State.accept_frametype (s : State) (w : RequestWord) (rest : List RequestWord) : (s.accept w rest).frametype = s.frametype := rfl
@[simp] theorem State.accept_fsWidth (s : State) (w : RequestWord) (rest : List RequestWord) : (s.accept w rest).fsWidth = s.fsWidth := rfl
@[simp] theorem State.accept_fsHeight (s : State) (w : RequestWord) (rest : List RequestWord) : (s.accept w rest).fsHeight = s.fsHeight := rfl
@[simp] theorem State.accept_fsBytelen (s : State) (w : RequestWord) (rest : List RequestWord) : (s.accept w rest).fsBytelen = s.fsBytelen := rfl
@[simp] theorem State.accept_user0 (s : State) (w : RequestWord) (rest : List RequestWord) : (s.accept w rest).user0 = s.user0 := rfl
@[simp] theorem State.accept_user1 (s : State) (w : RequestWord) (rest : List RequestWord) : (s.accept w rest).user1 = s.user1 := rfl
@[simp] theorem State.accept_ctx (s : State) (w : RequestWord) (rest : List RequestWord) : (s.accept w rest).ctx = s.ctx := rfl
@[simp] theorem State.accept_fsValid (s : State) (w : RequestWord) (rest : List RequestWord) : (s.accept w rest).fsValid = s.fsValid := rfl
@[simp] theorem State.accept_fsExternal (s : State) (w : RequestWord) (rest : List RequestWord) : (s.accept w rest).fsExternal = s.fsExternal := rfl
@[simp] theorem State.accept_activeValid (s : State) (w : RequestWord) (rest : List RequestWord) : (s.accept w rest).activeValid = s.activeValid := rfl
@[simp] theorem State.accept_pstate (s : State) (w : RequestWord) (rest : List RequestWord) : (s.accept w rest).pstate = s.pstate := rfl
@[simp] theorem State.accept_result (s : State) (w : RequestWord) (rest : List RequestWord) : (s.accept w rest).result = s.result := rfl
@[simp] theorem State.accept_seq (s : State) (w : RequestWord) (rest : List RequestWord) : (s.accept w rest).seq = s.seq := rfl
@[simp] theorem State.accept_latch (s : State) (w : RequestWord) (rest : List RequestWord) : (s.accept w rest).latch = ⟨RequestWord.op w, RequestWord.sub w, RequestWord.x w, RequestWord.y w⟩ := rfl
@[simp] theorem State.accept_buf (s : State) (w : RequestWord) (rest : List RequestWord) : (s.accept w rest).buf = s.buf := rfl
@[simp] theorem State.accept_response (s : State) (w : RequestWord) (rest : List RequestWord) : (s.accept w rest).response = none := rfl
@[simp] theorem State.accept_waiting (s : State) (w : RequestWord) (rest : List RequestWord) : (s.accept w rest).waiting = s.waiting := rfl
@[simp] theorem State.accept_requests (s : State) (w : RequestWord) (rest : List RequestWord) : (s.accept w rest).requests = rest := rfl
@[simp] theorem State.accept_answers (s : State) (w : RequestWord) (rest : List RequestWord) : (s.accept w rest).answers = s.answers := rfl
@[simp] theorem State.accept_trace (s : State) (w : RequestWord) (rest : List RequestWord) : (s.accept w rest).trace = s.trace := rfl

/-! ### `fillStore` -/

@[simp] theorem fillStore_product (w h : Nat) (s : State) : (fillStore w h s).product = s.product := rfl
@[simp] theorem fillStore_colorcap (w h : Nat) (s : State) : (fillStore w h s).colorcap = s.colorcap := rfl
@[simp] theorem fillStore_frametype (w h : Nat) (s : State) : (fillStore w h s).frametype = s.frametype := rfl
@[simp] theorem fillStore_fsWidth (w h : Nat) (s : State) : (fillStore w h s).fsWidth = BitVec.ofNat 16 w := rfl
@[simp] theorem fillStore_fsHeight (w h : Nat) (s : State) : (fillStore w h s).fsHeight = BitVec.ofNat 16 h := rfl
@[simp] theorem fillStore_fsBytelen (w h : Nat) (s : State) : (fillStore w h s).fsBytelen = BitVec.ofNat 16 (bytesNeeded w h) := rfl
@[simp] theorem fillStore_user0 (w h : Nat) (s : State) : (fillStore w h s).user0 = s.user0 := rfl
@[simp] theorem fillStore_user1 (w h : Nat) (s : State) : (fillStore w h s).user1 = s.user1 := rfl
@[simp] theorem fillStore_ctx (w h : Nat) (s : State) : (fillStore w h s).ctx = s.ctx := rfl
@[simp] theorem fillStore_fsValid (w h : Nat) (s : State) : (fillStore w h s).fsValid = true := rfl
@[simp] theorem fillStore_fsExternal (w h : Nat) (s : State) : (fillStore w h s).fsExternal = false := rfl
@[simp] theorem fillStore_activeValid (w h : Nat) (s : State) : (fillStore w h s).activeValid = s.activeValid := rfl
@[simp] theorem fillStore_pstate (w h : Nat) (s : State) : (fillStore w h s).pstate = s.pstate := rfl
@[simp] theorem fillStore_result (w h : Nat) (s : State) : (fillStore w h s).result = s.result := rfl
@[simp] theorem fillStore_seq (w h : Nat) (s : State) : (fillStore w h s).seq = s.seq := rfl
@[simp] theorem fillStore_latch (w h : Nat) (s : State) : (fillStore w h s).latch = s.latch := rfl
@[simp] theorem fillStore_buf (w h : Nat) (s : State) : (fillStore w h s).buf = s.buf.zeroFill (bytesNeeded w h) := rfl
@[simp] theorem fillStore_response (w h : Nat) (s : State) : (fillStore w h s).response = s.response := rfl
@[simp] theorem fillStore_waiting (w h : Nat) (s : State) : (fillStore w h s).waiting = s.waiting := rfl
@[simp] theorem fillStore_requests (w h : Nat) (s : State) : (fillStore w h s).requests = s.requests := rfl
@[simp] theorem fillStore_answers (w h : Nat) (s : State) : (fillStore w h s).answers = s.answers := rfl
@[simp] theorem fillStore_trace (w h : Nat) (s : State) : (fillStore w h s).trace = s.trace := rfl

end Sys2Proof.Machine
end

