-- ==== Sys2Proof/Laws/Calls.lean ====
section
/-! SUPPORT. What the capability calls and a send can do, said once: their frame, their effect when every call is
answered OK, and where they stop. -/

namespace Sys2Proof.Machine

/-! ### The frame of the sequencer -/

theorem SequencerFrame.refl (s : State) : SequencerFrame s s := rfl

theorem SequencerFrame.trans {s t u : State} (h : SequencerFrame s t) (h' : SequencerFrame t u) :
    SequencerFrame s u := by
  unfold SequencerFrame at *
  rw [h'] at *
  rw [h]

theorem SequencerFrame.finish (s : State) (code : Code) (d : DataWord) : SequencerFrame s (s.finish code d) := rfl

theorem SequencerFrame.abort (s : State) (code : Code) : SequencerFrame s (s.abort code) := rfl

theorem SequencerFrame.answered (s : State) (a : Code) : SequencerFrame s (State.answered s a).state := by
  unfold State.answered
  split <;> rfl

theorem SequencerFrame.cap (c : Call) (s : State) : SequencerFrame s (cap c s).state := by
  unfold Machine.cap
  split
  · rfl
  · rename_i a rest _
    exact SequencerFrame.trans (t := { s.emit c with answers := rest }) rfl (SequencerFrame.answered _ a)

theorem SequencerFrame.runCalls (cs : List Call) (s : State) : SequencerFrame s (runCalls cs s).state := by
  induction cs generalizing s with
  | nil => rfl
  | cons c cs ih =>
    have h := SequencerFrame.cap c s
    unfold Machine.runCalls
    split
    · rename_i t ht
      rw [ht] at h
      exact h.trans (ih t)
    · rename_i t ht
      rw [ht] at h
      exact h

/-! ### Every call answered OK -/

/-- The state after `cs` when each of its calls is answered OK and `rest` are the answers left. -/
def State.afterCalls (s : State) (cs : List Call) (rest : List Code) : State :=
  { s with
    trace := s.trace ++ cs.map fun c => ⟨c, s.ctx⟩
    answers := rest
    seq := { s.seq with k := s.seq.k + cs.length } }

theorem cap_ok (c : Call) (s : State) (rest : List Code) (h : s.answers = Code.ok :: rest) :
    cap c s = .go (s.afterCalls [c] rest) := by
  simp [cap, h, State.answered, State.afterCalls, State.emit]

theorem cap_waits (c : Call) (s : State) (h : s.answers = []) :
    cap c s = .stop { s.emit c with waiting := true } := by
  simp [cap, h]

theorem cap_fails (c : Call) (s : State) (a : Code) (rest : List Code) (h : s.answers = a :: rest)
    (ha : a ≠ Code.ok) : cap c s = .stop ({ s.emit c with answers := rest }.abort a) := by
  simp [cap, h, State.answered, ha]

/-- A script whose every call is answered OK is carried out whole. -/
theorem runCalls_ok (cs : List Call) (s : State) (rest : List Code)
    (h : s.answers = List.replicate cs.length Code.ok ++ rest) : runCalls cs s = .go (s.afterCalls cs rest) := by
  induction cs generalizing s with
  | nil =>
    simp only [List.length_nil, List.replicate_zero, List.nil_append] at h
    simp [runCalls, State.afterCalls, ← h]
  | cons c cs ih =>
    rw [List.length_cons, List.replicate_succ, List.cons_append] at h
    rw [runCalls, cap_ok c s _ h]
    simp only
    rw [ih (s.afterCalls [c] _) rfl]
    simp [State.afterCalls, Nat.add_assoc, Nat.add_comm 1]

/-- The first call that is not answered OK ends the script and the operation with that code. -/
theorem runCalls_fails (done : List Call) (c : Call) (after : List Call) (s : State) (a : Code) (rest : List Code)
    (h : s.answers = List.replicate done.length Code.ok ++ a :: rest) (ha : a ≠ Code.ok) :
    runCalls (done ++ c :: after) s =
      .stop (({ (s.afterCalls done (a :: rest)).emit c with answers := rest }).abort a) := by
  induction done generalizing s with
  | nil =>
    simp only [List.length_nil, List.replicate_zero, List.nil_append] at h
    rw [List.nil_append, runCalls, cap_fails c s a rest h ha]
    simp [State.afterCalls, State.emit, State.abort, State.finish]
    rfl
  | cons d ds ih =>
    rw [List.length_cons, List.replicate_succ, List.cons_append] at h
    rw [List.cons_append, runCalls, cap_ok d s _ h]
    simp only
    rw [ih (s.afterCalls [d] _) rfl]
    simp [State.afterCalls, State.emit, State.abort, State.finish]

/-- Where the answers run out the call is made and the core waits in it. -/
theorem runCalls_waits (done : List Call) (c : Call) (after : List Call) (s : State)
    (h : s.answers = List.replicate done.length Code.ok) :
    runCalls (done ++ c :: after) s = .stop { (s.afterCalls done []).emit c with waiting := true } := by
  induction done generalizing s with
  | nil =>
    rw [List.nil_append, runCalls, cap_waits c s (by simpa using h)]
    simp [State.afterCalls, State.emit, show s.answers = [] by simpa using h]
  | cons d ds ih =>
    rw [List.length_cons, List.replicate_succ] at h
    rw [List.cons_append, runCalls, cap_ok d s _ h]
    simp only
    rw [ih (s.afterCalls [d] _) rfl]
    simp [State.afterCalls, State.emit, Nat.add_assoc, Nat.add_comm 1]

/-- What a script can do: carried out whole with each call answered OK, stopped by the first other answer, or
left waiting for one. -/
theorem runCalls_cases (cs : List Call) (s : State) :
    (∃ rest, s.answers = List.replicate cs.length Code.ok ++ rest ∧ runCalls cs s = .go (s.afterCalls cs rest)) ∨
    (∃ done c after a rest, cs = done ++ c :: after ∧ a ≠ Code.ok ∧
      s.answers = List.replicate done.length Code.ok ++ a :: rest ∧
      runCalls cs s = .stop (({ (s.afterCalls done (a :: rest)).emit c with answers := rest }).abort a)) ∨
    (∃ done c after, cs = done ++ c :: after ∧ s.answers = List.replicate done.length Code.ok ∧
      runCalls cs s = .stop { (s.afterCalls done []).emit c with waiting := true }) := by
  have key : ∀ (cs : List Call) (l : List Code),
      (∃ rest, l = List.replicate cs.length Code.ok ++ rest) ∨
      (∃ done c after a rest, cs = done ++ c :: after ∧ a ≠ Code.ok ∧
        l = List.replicate done.length Code.ok ++ a :: rest) ∨
      (∃ done c after, cs = done ++ c :: after ∧ l = List.replicate done.length Code.ok) := by
    intro cs
    induction cs with
    | nil => exact fun l => .inl ⟨l, by simp⟩
    | cons c cs ih =>
      intro l
      cases l with
      | nil => exact .inr (.inr ⟨[], c, cs, rfl, rfl⟩)
      | cons a l =>
        by_cases ha : a = Code.ok
        · subst ha
          obtain ⟨rest, h⟩ | ⟨done, d, after, b, rest, h1, h2, h3⟩ | ⟨done, d, after, h1, h2⟩ := ih l
          · exact .inl ⟨rest, by simp [h, List.replicate_succ]⟩
          · exact .inr (.inl ⟨c :: done, d, after, b, rest, by simp [h1], h2, by simp [h3, List.replicate_succ]⟩)
          · exact .inr (.inr ⟨c :: done, d, after, by simp [h1], by simp [h2, List.replicate_succ]⟩)
        · exact .inr (.inl ⟨[], c, cs, a, l, rfl, ha, rfl⟩)
  obtain ⟨rest, h⟩ | ⟨done, c, after, a, rest, h1, h2, h3⟩ | ⟨done, c, after, h1, h2⟩ := key cs s.answers
  · exact .inl ⟨rest, h, runCalls_ok cs s rest h⟩
  · exact .inr (.inl ⟨done, c, after, a, rest, h1, h2, h3, by rw [h1]; exact runCalls_fails done c after s a rest h3 h2⟩)
  · exact .inr (.inr ⟨done, c, after, h1, h2, by rw [h1]; exact runCalls_waits done c after s h2⟩)

/-! ### Sends -/

@[simp] theorem Wire.calls_w0_length (cmd : Byte) : (Wire.w0 cmd).calls.length = 2 := rfl
@[simp] theorem Wire.calls_wp_length (cmd : Byte) (data : List Byte) : (Wire.wp cmd data).calls.length = 4 := rfl

/-- A send runs the calls of its wire form, unless its payload is empty. -/
theorem send_eq (w : Wire) (s : State) (h : ∀ cmd, w ≠ .wp cmd []) :
    send w s = .next (runCalls w.calls s).state := by
  match w, h with
  | .w0 cmd, _ => rfl
  | .wp cmd [], h => exact absurd rfl (h cmd)
  | .wp cmd (b :: data), _ => rfl

/-- Whatever a send answers, it changes nothing but the sequencer's fields. -/
theorem send_frame {w : Wire} {s t : State} (h : send w s = .next t) : SequencerFrame s t := by
  unfold send at h
  split at h
  · cases h
  · cases h
    exact SequencerFrame.runCalls _ s
  · cases h
    exact SequencerFrame.runCalls _ s

end Sys2Proof.Machine
end

