-- ==== Sys2Proof/Laws/Memory.lean ====
section
/-! SUPPORT. The buffer: read after write, and that every operation keeps the canonical form. -/

namespace Sys2Proof.Machine

/-! ### Reads after updates -/

theorem findCell_putCell_same (cells : List Host.Cell) (a : Nat) (b : Byte) :
    findCell (putCell cells a b) a = some b := by
  induction cells with
  | nil => simp [putCell, findCell]
  | cons c rest ih =>
    obtain ⟨a', b'⟩ := c
    unfold putCell
    split
    · simp [findCell]
    · split
      · simp [findCell]
      · rename_i h
        simp [findCell, Ne.symm h, ih]

theorem findCell_putCell_other (cells : List Host.Cell) {a x : Nat} (b : Byte) (h : x ≠ a) :
    findCell (putCell cells a b) x = findCell cells x := by
  induction cells with
  | nil => simp [putCell, findCell, Ne.symm h]
  | cons c rest ih =>
    obtain ⟨a', b'⟩ := c
    unfold putCell
    split
    · simp [findCell, Ne.symm h]
    · split
      · rename_i h'
        subst h'
        simp [findCell, Ne.symm h]
      · simp [findCell, ih]

/-- A read after a write to the same place gives the value written. -/
@[simp] theorem Memory.read_write_same (m : Memory) (a : Nat) (b : Byte) : (m.write a b).read a = b := by
  simp [Memory.read, Memory.write, findCell_putCell_same]

/-- A write leaves every other place alone. -/
theorem Memory.read_write_other (m : Memory) {a x : Nat} (b : Byte) (h : x ≠ a) :
    (m.write a b).read x = m.read x := by
  simp [Memory.read, Memory.write, findCell_putCell_other _ _ h]

theorem Memory.read_write (m : Memory) (a x : Nat) (b : Byte) :
    (m.write a b).read x = if x = a then b else m.read x := by
  split
  · rename_i h
    rw [h, Memory.read_write_same]
  · exact Memory.read_write_other m b ‹_›

theorem findCell_append (l r : List Host.Cell) (x : Nat) :
    findCell (l ++ r) x = (findCell l x).or (findCell r x) := by
  induction l with
  | nil => simp [findCell]
  | cons c rest ih =>
    obtain ⟨a, b⟩ := c
    by_cases h : a = x <;> simp [findCell, h, ih]

theorem findCell_zeroCells (n lo x : Nat) :
    findCell (zeroCells lo n) x = if lo ≤ x ∧ x < lo + n then some 0 else none := by
  induction n generalizing lo with
  | zero =>
    simp only [zeroCells, findCell]
    split
    · omega
    · rfl
  | succ n ih =>
    by_cases h : lo = x
    · simp [zeroCells, findCell, h]
    · simp only [zeroCells, findCell, h, if_false, ih]
      by_cases h2 : lo + 1 ≤ x ∧ x < lo + 1 + n
      · rw [if_pos h2, if_pos (by omega)]
      · rw [if_neg h2, if_neg (by omega)]

theorem findCell_filter_ge (cells : List Host.Cell) {n x : Nat} (h : n ≤ x) :
    findCell (cells.filter fun c => decide (n ≤ c.1)) x = findCell cells x := by
  induction cells with
  | nil => rfl
  | cons c rest ih =>
    obtain ⟨a, b⟩ := c
    by_cases ha : n ≤ a
    · simp [ha, findCell, ih]
    · have hax : a ≠ x := by omega
      simp [ha, findCell, hax, ih]

/-- What a zero fill of `n` bytes leaves to be read (41_frame_store R151). -/
theorem Memory.read_zeroFill (m : Memory) (n x : Nat) :
    (m.zeroFill n).read x = if x < n then 0 else m.read x := by
  by_cases h : x < n
  · simp [Memory.read, Memory.zeroFill, findCell_append, findCell_zeroCells, h]
  · simp [Memory.read, Memory.zeroFill, findCell_append, findCell_zeroCells, h,
      findCell_filter_ge m.cells (Nat.le_of_not_lt h)]

@[simp] theorem Memory.read_forget (m : Memory) (x : Nat) :
    m.forget.read x = Config.freeByte (m.epoch + 1) x := rfl

/-! ### The canonical form -/

theorem risingFrom_mono {lo hi : Nat} {cells : List Host.Cell} (h : risingFrom hi cells = true) (hl : lo ≤ hi) :
    risingFrom lo cells = true := by
  cases cells with
  | nil => rfl
  | cons c rest =>
    obtain ⟨a, b⟩ := c
    simp only [risingFrom, Bool.and_eq_true, decide_eq_true_eq] at *
    exact ⟨by omega, h.2⟩

theorem risingFrom_putCell {lo : Nat} {cells : List Host.Cell} {a : Nat} (b : Byte)
    (h : risingFrom lo cells = true) (ha : lo ≤ a) : risingFrom lo (putCell cells a b) = true := by
  induction cells generalizing lo with
  | nil => simp [putCell, risingFrom, ha]
  | cons c rest ih =>
    obtain ⟨a', b'⟩ := c
    simp only [risingFrom, Bool.and_eq_true, decide_eq_true_eq] at h
    unfold putCell
    split
    · rename_i hlt
      simp only [risingFrom, Bool.and_eq_true, decide_eq_true_eq]
      exact ⟨ha, by omega, h.2⟩
    · split
      · rename_i _ heq
        subst heq
        simp only [risingFrom, Bool.and_eq_true, decide_eq_true_eq]
        exact h
      · simp only [risingFrom, Bool.and_eq_true, decide_eq_true_eq]
        exact ⟨h.1, ih h.2 (by omega)⟩

theorem putCell_all_lt {cells : List Host.Cell} {a cap : Nat} (b : Byte)
    (h : cells.all (fun c => decide (c.1 < cap)) = true) (ha : a < cap) :
    (putCell cells a b).all (fun c => decide (c.1 < cap)) = true := by
  induction cells with
  | nil => simp [putCell, ha]
  | cons c rest ih =>
    obtain ⟨a', b'⟩ := c
    simp only [List.all_cons, Bool.and_eq_true, decide_eq_true_eq] at h
    unfold putCell
    split
    · simp [ha, h.1]
      simpa using h.2
    · split
      · simp [ha]
        simpa using h.2
      · simp [h.1]
        simpa using ih h.2

/-- A write inside the buffer RAM keeps the canonical form. -/
theorem Memory.wf_write {m : Memory} {a : Nat} (b : Byte) (h : m.wf = true) (ha : a < Config.fsCapacity) :
    (m.write a b).wf = true := by
  simp only [Memory.wf, Bool.and_eq_true] at *
  exact ⟨risingFrom_putCell b h.1 (Nat.zero_le a), putCell_all_lt b h.2 ha⟩

theorem risingFrom_filter_ge {cells : List Host.Cell} {n lo : Nat} (h : risingFrom lo cells = true) :
    risingFrom n (cells.filter fun c => decide (n ≤ c.1)) = true := by
  induction cells generalizing lo with
  | nil => rfl
  | cons c rest ih =>
    obtain ⟨a, b⟩ := c
    simp only [risingFrom, Bool.and_eq_true, decide_eq_true_eq] at h
    by_cases ha : n ≤ a
    · simp only [List.filter_cons, ha, decide_true, if_true, risingFrom, Bool.true_and]
      have hall : rest.filter (fun c => decide (n ≤ c.1)) = rest := by
        clear ih
        have : ∀ (l : List Host.Cell) (k : Nat), risingFrom k l = true → n ≤ k →
            l.filter (fun c => decide (n ≤ c.1)) = l := by
          intro l
          induction l with
          | nil => intros; rfl
          | cons c l ihl =>
            intro k hk hn
            obtain ⟨a2, b2⟩ := c
            simp only [risingFrom, Bool.and_eq_true, decide_eq_true_eq] at hk
            have hn2 : n ≤ a2 := by omega
            simp [hn2, ihl (a2 + 1) hk.2 (by omega)]
        exact this rest (a + 1) h.2 (by omega)
      rw [hall]
      exact h.2
    · simp only [List.filter_cons, ha, decide_false, Bool.false_eq_true, if_false]
      exact ih h.2

theorem risingFrom_zeroCells_append (n lo : Nat) {rest : List Host.Cell} (h : risingFrom (lo + n) rest = true) :
    risingFrom lo (zeroCells lo n ++ rest) = true := by
  induction n generalizing lo with
  | zero => simpa [zeroCells] using h
  | succ n ih =>
    simp only [zeroCells, List.cons_append, risingFrom, Bool.and_eq_true, decide_eq_true_eq]
    exact ⟨Nat.le_refl lo, ih (lo + 1) (by simpa [Nat.add_assoc, Nat.add_comm 1 n] using h)⟩

theorem zeroCells_lt (n lo cap : Nat) (h : lo + n ≤ cap) :
    (zeroCells lo n).all (fun c => decide (c.1 < cap)) = true := by
  induction n generalizing lo with
  | zero => rfl
  | succ n ih =>
    simp only [zeroCells, List.all_cons, Bool.and_eq_true, decide_eq_true_eq]
    exact ⟨by omega, ih (lo + 1) (by omega)⟩

/-- A zero fill inside the buffer RAM keeps the canonical form. -/
theorem Memory.wf_zeroFill {m : Memory} {n : Nat} (h : m.wf = true) (hn : n ≤ Config.fsCapacity) :
    (m.zeroFill n).wf = true := by
  simp only [Memory.wf, Bool.and_eq_true] at *
  refine ⟨risingFrom_zeroCells_append n 0 (by simpa using risingFrom_filter_ge h.1), ?_⟩
  have hz := zeroCells_lt n 0 Config.fsCapacity (by simpa using hn)
  simp only [Memory.zeroFill, List.all_append, hz, Bool.true_and, List.all_eq_true] at *
  intro c hc
  exact h.2 c (List.mem_filter.mp hc).1

/-- A buffer that has become unspecified has the canonical form. -/
@[simp] theorem Memory.wf_forget (m : Memory) : m.forget.wf = true := rfl

/-- The buffer after block reset has the canonical form. -/
theorem Memory.wf_reset : State.reset.buf.wf = true := rfl

end Sys2Proof.Machine
end

