-- ==== Sys2Proof/Laws/Pixels.lean ====
section
/-! SUPPORT. Pixel fields and addresses, and what one pixel write can do, said once. -/

namespace Sys2Proof.Machine

/-! ### Fields -/

/-- Bit `i` of a byte whose field at `off` was replaced: the code inside the field, the old bit outside. -/
theorem setField_getLsbD (b : Byte) (off : Nat) (code : BitVec 2) (i : Nat) (h : i < 8) :
    (setField b off code).getLsbD i =
      if i < off then b.getLsbD i else if i < off + 2 then code.getLsbD (i - off) else b.getLsbD i := by
  simp only [setField, BitVec.getLsbD_or, BitVec.getLsbD_and, BitVec.getLsbD_not, BitVec.getLsbD_shiftLeft,
    BitVec.getLsbD_setWidth, h, decide_true, Bool.true_and]
  by_cases h1 : i < off
  · simp [h1]
  · simp only [h1, decide_false, Bool.not_false, Bool.true_and, if_false]
    have hl : i - off < 8 := by omega
    simp only [hl, decide_true, Bool.true_and]
    by_cases h2 : i < off + 2
    · have h3 : i - off = 0 ∨ i - off = 1 := by omega
      simp only [h2, if_true]
      obtain h3 | h3 := h3 <;> simp [h3]
    · simp only [h2, if_false]
      have hz : (0b11#8).getLsbD (i - off) = false := by
        have : ∀ k, 2 ≤ k → k < 8 → (0b11#8).getLsbD k = false := by decide
        exact this _ (by omega) hl
      have hc : code.getLsbD (i - off) = false := BitVec.getLsbD_of_ge _ _ (by omega)
      simp [hz, hc]

/-- The bits of a field. -/
theorem field_getLsbD (b : Byte) (off i : Nat) (h : i < 2) : (field b off).getLsbD i = b.getLsbD (off + i) := by
  simp [field, h]

/-- The field that was replaced reads as the code. -/
theorem field_setField_same (b : Byte) {off : Nat} (code : BitVec 2) (h : off ≤ 6) :
    field (setField b off code) off = code := by
  apply BitVec.eq_of_getLsbD_eq
  intro i hi
  rw [field_getLsbD _ _ _ hi, setField_getLsbD _ _ _ _ (by omega)]
  simp [show ¬ off + i < off by omega, show off + i < off + 2 by omega]

/-- Another field at an even offset reads as before. -/
theorem field_setField_other (b : Byte) {off off' : Nat} (code : BitVec 2) (h' : off' ≤ 6)
    (he : off % 2 = 0) (he' : off' % 2 = 0) (hne : off' ≠ off) :
    field (setField b off code) off' = field b off' := by
  apply BitVec.eq_of_getLsbD_eq
  intro i hi
  rw [field_getLsbD _ _ _ hi, field_getLsbD _ _ _ hi, setField_getLsbD _ _ _ _ (by omega)]
  split
  · rfl
  · split
    · omega
    · rfl

/-- Replacing a field twice leaves what the last replacement leaves. -/
theorem setField_setField (b : Byte) (off : Nat) (c d : BitVec 2) :
    setField (setField b off c) off d = setField b off d := by
  apply BitVec.eq_of_getLsbD_eq
  intro i hi
  simp only [setField_getLsbD _ _ _ _ hi]
  split
  · rfl
  · split <;> rfl

/-! ### Colours -/

/-- The code of an enabled colour decodes to that colour, red and yellow not being enabled together (40_pixel_codec
R138, 10_state R28). -/
theorem colourOf_codeOf {s : State} {c : Colour} (h : s.capOf c = true) (hx : s.capRed = false ∨ s.capYellow = false) :
    s.colourOf (codeOf c) = some c := by
  cases c <;> simp_all [State.colourOf, codeOf, State.capOf]

/-! ### Addresses -/

theorem offOf_le (w x y : Nat) : offOf w x y ≤ 6 := by unfold offOf; omega

theorem offOf_even (w x y : Nat) : offOf w x y % 2 = 0 := by unfold offOf; omega

/-- The byte and the offset determine the pixel index (20_memory R62). -/
theorem pixelIndex_eq (w x y : Nat) : pixelIndex w x y = 4 * byteOf w x y + offOf w x y / 2 := by
  unfold byteOf offOf
  omega

/-- The index determines the pixel of an image that is `w` wide. -/
theorem pixelIndex_inj {w x y x' y' : Nat} (hx : x < w) (hx' : x' < w)
    (h : pixelIndex w x y = pixelIndex w x' y') : x = x' ∧ y = y' := by
  unfold pixelIndex at h
  have hw : 0 < w := by omega
  have hy : y = y' := by
    have h1 : (y * w + x) / w = y := by
      rw [Nat.mul_comm, Nat.mul_add_div hw, Nat.div_eq_of_lt hx, Nat.add_zero]
    have h2 : (y' * w + x') / w = y' := by
      rw [Nat.mul_comm, Nat.mul_add_div hw, Nat.div_eq_of_lt hx', Nat.add_zero]
    rw [← h1, ← h2, h]
  subst hy
  exact ⟨by omega, rfl⟩

/-- Every pixel of a `w` by `h` image lies below the bytes the image needs. -/
theorem byteOf_lt {w h x y : Nat} (hx : x < w) (hy : y < h) : byteOf w x y < bytesNeeded w h := by
  have hm : (y + 1) * w ≤ h * w := Nat.mul_le_mul_right w hy
  have e : (y + 1) * w = y * w + w := Nat.succ_mul y w
  have hc : w * h = h * w := Nat.mul_comm w h
  unfold byteOf bytesNeeded pixelIndex
  omega

/-! ### One pixel -/

/-- The state after a pixel was written: one byte of the buffer has one field replaced. -/
def pixelWritten (x y : Nat) (c : Colour) (s : State) : State :=
  let a := byteOf s.fsWidth.toNat x y
  { s with buf := s.buf.write a (setField (s.readByte a) (offOf s.fsWidth.toNat x y) (codeOf c)) }

@[simp] theorem pixelWritten_product (x y : Nat) (c : Colour) (s : State) : (pixelWritten x y c s).product = s.product := rfl
@[simp] theorem pixelWritten_colorcap (x y : Nat) (c : Colour) (s : State) : (pixelWritten x y c s).colorcap = s.colorcap := rfl
@[simp] theorem pixelWritten_frametype (x y : Nat) (c : Colour) (s : State) : (pixelWritten x y c s).frametype = s.frametype := rfl
@[simp] theorem pixelWritten_fsWidth (x y : Nat) (c : Colour) (s : State) : (pixelWritten x y c s).fsWidth = s.fsWidth := rfl
@[simp] theorem pixelWritten_fsHeight (x y : Nat) (c : Colour) (s : State) : (pixelWritten x y c s).fsHeight = s.fsHeight := rfl
@[simp] theorem pixelWritten_fsBytelen (x y : Nat) (c : Colour) (s : State) : (pixelWritten x y c s).fsBytelen = s.fsBytelen := rfl
@[simp] theorem pixelWritten_user0 (x y : Nat) (c : Colour) (s : State) : (pixelWritten x y c s).user0 = s.user0 := rfl
@[simp] theorem pixelWritten_user1 (x y : Nat) (c : Colour) (s : State) : (pixelWritten x y c s).user1 = s.user1 := rfl
@[simp] theorem pixelWritten_ctx (x y : Nat) (c : Colour) (s : State) : (pixelWritten x y c s).ctx = s.ctx := rfl
@[simp] theorem pixelWritten_fsValid (x y : Nat) (c : Colour) (s : State) : (pixelWritten x y c s).fsValid = s.fsValid := rfl
@[simp] theorem pixelWritten_fsExternal (x y : Nat) (c : Colour) (s : State) : (pixelWritten x y c s).fsExternal = s.fsExternal := rfl
@[simp] theorem pixelWritten_activeValid (x y : Nat) (c : Colour) (s : State) : (pixelWritten x y c s).activeValid = s.activeValid := rfl
@[simp] theorem pixelWritten_pstate (x y : Nat) (c : Colour) (s : State) : (pixelWritten x y c s).pstate = s.pstate := rfl
@[simp] theorem pixelWritten_result (x y : Nat) (c : Colour) (s : State) : (pixelWritten x y c s).result = s.result := rfl
@[simp] theorem pixelWritten_seq (x y : Nat) (c : Colour) (s : State) : (pixelWritten x y c s).seq = s.seq := rfl
@[simp] theorem pixelWritten_latch (x y : Nat) (c : Colour) (s : State) : (pixelWritten x y c s).latch = s.latch := rfl
@[simp] theorem pixelWritten_response (x y : Nat) (c : Colour) (s : State) : (pixelWritten x y c s).response = s.response := rfl
@[simp] theorem pixelWritten_waiting (x y : Nat) (c : Colour) (s : State) : (pixelWritten x y c s).waiting = s.waiting := rfl
@[simp] theorem pixelWritten_requests (x y : Nat) (c : Colour) (s : State) : (pixelWritten x y c s).requests = s.requests := rfl
@[simp] theorem pixelWritten_answers (x y : Nat) (c : Colour) (s : State) : (pixelWritten x y c s).answers = s.answers := rfl
@[simp] theorem pixelWritten_trace (x y : Nat) (c : Colour) (s : State) : (pixelWritten x y c s).trace = s.trace := rfl

/-- Every byte after a pixel write (40_pixel_codec R134). -/
theorem readByte_pixelWritten (x y : Nat) (c : Colour) (s : State) (a : Nat) :
    (pixelWritten x y c s).readByte a =
      if a = byteOf s.fsWidth.toNat x y then setField (s.readByte a) (offOf s.fsWidth.toNat x y) (codeOf c)
      else s.readByte a := by
  simp only [State.readByte, pixelWritten, Memory.read_write]
  split
  · rename_i h
    rw [h]
  · rfl

/-- Every pixel of the image after a pixel write: the pixel has its colour's code, every other one its own
(95_test_vectors L1.1). -/
theorem pixelCode_pixelWritten {x y x' : Nat} (y' : Nat) (c : Colour) (s : State) (hx : x < s.fsWidth.toNat)
    (hx' : x' < s.fsWidth.toNat) :
    (pixelWritten x y c s).pixelCode x' y' = if (x', y') = (x, y) then codeOf c else s.pixelCode x' y' := by
  unfold State.pixelCode
  rw [pixelWritten_fsWidth, readByte_pixelWritten]
  split
  · rename_i hb
    by_cases ho : offOf s.fsWidth.toNat x' y' = offOf s.fsWidth.toNat x y
    · obtain ⟨rfl, rfl⟩ := pixelIndex_inj hx' hx (y := y') (y' := y) (by rw [pixelIndex_eq, pixelIndex_eq, hb, ho])
      rw [if_pos rfl, field_setField_same _ _ (offOf_le _ _ _)]
    · rw [field_setField_other _ _ (offOf_le _ _ _) (offOf_even _ _ _) (offOf_even _ _ _) ho, if_neg]
      rintro ⟨⟩
      exact ho rfl
  · rename_i hb
    rw [if_neg]
    rintro ⟨⟩
    exact hb rfl

/-- What the body of SET_PIXEL can do (40_pixel_codec R131): one of the four checks fails and nothing changes, or
one byte of the buffer is written. -/
theorem setPixel_cases (x y : Nat) (c : Colour) (s : State) :
    ((setPixel x y c s).2 = s ∧ (setPixel x y c s).1 ≠ Code.ok) ∨
    (s.fsValid = true ∧ x < s.fsWidth.toNat ∧ y < s.fsHeight.toNat ∧ s.capOf c = true ∧
      byteOf s.fsWidth.toNat x y < s.fsBytelen.toNat ∧
      setPixel x y c s =
        (Code.ok, pixelWritten x y c s)) := by
  unfold setPixel
  simp only
  split
  · exact .inl ⟨rfl, (by decide : Code.notConfigured ≠ Code.ok)⟩
  · split
    · exact .inl ⟨rfl, (by decide : Code.outOfRange ≠ Code.ok)⟩
    · split
      · exact .inl ⟨rfl, (by decide : Code.notAvailable ≠ Code.ok)⟩
      · split
        · exact .inl ⟨rfl, (by decide : Code.failure ≠ Code.ok)⟩
        · rename_i h1 h2 h3 h4
          simp only [Decidable.not_not] at h2
          exact .inr ⟨by simpa using h1, h2.1, h2.2, by simpa using h3, by omega, rfl⟩

/-- A pixel write passes its checks where they hold. -/
theorem setPixel_ok {x y : Nat} {c : Colour} {s : State} (h1 : s.fsValid = true) (h2 : x < s.fsWidth.toNat)
    (h3 : y < s.fsHeight.toNat) (h4 : s.capOf c = true) (h5 : byteOf s.fsWidth.toNat x y < s.fsBytelen.toNat) :
    setPixel x y c s =
      (Code.ok, pixelWritten x y c s) := by
  unfold setPixel
  simp only
  rw [if_neg (by simp [h1]), if_neg (fun h => h ⟨h2, h3⟩), if_neg (by simp [h4]), if_neg (Nat.not_le.mpr h5)]
  rfl

end Sys2Proof.Machine
end

