-- ==== Sys2Proof/Laws/FrameStore.lean ====
section
/-! SUPPORT. The Frame Store operations said once: what the checks of ALLOCATE and CLEAR's pixel loop can do. -/

namespace Sys2Proof.Machine

/-- The built-in profiles and their sizes (00_scope R8): a profile is one of the two, and both fit the buffer RAM. -/
theorem profile_cases {p : BitVec 2} {w h : Nat} (hp : profile p = some (w, h)) :
    (p = 0 ∧ w = 400 ∧ h = 300) ∨ (p = 1 ∧ w = 122 ∧ h = 250) := by
  unfold profile at hp
  split at hp
  · cases hp
    exact .inl ⟨‹_›, rfl, rfl⟩
  · split at hp
    · cases hp
      exact .inr ⟨‹_›, rfl, rfl⟩
    · cases hp

/-- What the checks of ALLOCATE can find (41_frame_store R151, R152): a Frame Store, no profile, or a Frame Store to
make, which the buffer RAM always holds (R157). -/
theorem allocation_cases (s : State) :
    (s.fsValid = true ∧ allocation s = .skipped) ∨
    (s.fsValid = false ∧ profile s.product = none ∧ allocation s = .failed Code.notAvailable) ∨
    (s.fsValid = false ∧ ∃ w h, profile s.product = some (w, h) ∧ bytesNeeded w h ≤ Config.fsCapacity ∧
      allocation s = .fills w h) := by
  unfold allocation allocationIn
  cases hv : s.fsValid
  · refine .inr ?_
    cases hp : profile s.product with
    | none => exact .inl ⟨rfl, rfl, rfl⟩
    | some p =>
      obtain ⟨w, h⟩ := p
      have hn : bytesNeeded w h ≤ Config.fsCapacity := by
        obtain ⟨_, rfl, rfl⟩ | ⟨_, rfl, rfl⟩ := profile_cases hp <;> decide
      exact .inr ⟨rfl, w, h, rfl, hn, if_neg (Nat.not_lt.mpr hn)⟩
  · exact .inl ⟨rfl, rfl⟩

/-- The pixel loop of CLEAR changes nothing but the buffer (44_panel_sequencer R260). -/
theorem setPixels_frame (c : Colour) (l : List (Nat × Nat)) (s : State) :
    (setPixels c l s).2 = { s with buf := (setPixels c l s).2.buf } := by
  induction l generalizing s with
  | nil => rfl
  | cons p l ih =>
    obtain ⟨x, y⟩ := p
    have h1 : (setPixel x y c s).2 = { s with buf := (setPixel x y c s).2.buf } := by
      obtain ⟨h, _⟩ | ⟨_, _, _, _, _, h⟩ := setPixel_cases x y c s <;> rw [h]
      rfl
    unfold setPixels
    split
    rename_i code t heq
    rw [heq] at h1
    simp only at h1
    split
    · have h2 := ih t
      rw [h1] at h2 ⊢
      exact h2
    · exact h1

end Sys2Proof.Machine
end

