-- ==== Sys2Proof/Laws/PerInstr.lean ====
section
/-! SUPPORT. One fact for every instruction, as syntax: the opcode that spec/opcode_table.json gives its row. -/

namespace Sys2Proof.Laws

/-- The `match` entry of an instruction's row of spec/opcode_table.json. The table writes the panel rows with the T0
identifiers (entry 9). -/
def rowMatch : Instr → Nat
  | .setup => 0x100000000000
  | .teardown => 0x200000000000
  | .allocate => 0x300000000000
  | .fsAttach => 0x400000000000
  | .setPixel _ _ _ => 0x500000000000
  | .update => 0x600000000000
  | .updateByMode _ => 0x700000000000
  | .clear => 0x800000000000
  | .csrRead _ => 0x900000000000
  | .csrWrite _ _ => 0xA00000000000
  | .fsRd _ => 0xB00000000000
  | .fsWr _ _ => 0xC00000000000
  | .reserved0 => 0x000000000000
  | .reservedD => 0xD00000000000
  | .reservedE => 0xE00000000000
  | .reservedF => 0xF00000000000
  | .pSwReset => 0x12
  | .pAnalogBlock => 0x74
  | .pDigitalBlock => 0x7E
  | .pGateSetting => 0x01
  | .pGateVoltage => 0x03
  | .pSourceVoltage => 0x04
  | .pDummyLine => 0x3A
  | .pGateLineWidth => 0x3B
  | .pDataEntryMode => 0x11
  | .pVcom => 0x2C
  | .pBorder1 => 0x3C
  | .pBorder2 => 0x3C
  | .pSourceOverride => 0x04
  | .pSetLut => 0x32
  | .pRamXRange => 0x44
  | .pRamYRange => 0x45
  | .pRamXPtr => 0x4E
  | .pRamYPtr => 0x4F
  | .pWriteBw => 0x24
  | .pWriteColor => 0x26
  | .pUpdateSeq => 0x22
  | .pTrigger => 0x20
  | .pDeepSleep => 0x10

/-- A word carries a row's opcode under the row's mask: the top four bits of a request word, a whole identifier
byte. -/
def carriesOpcode (row : Nat) : Encoded → Prop
  | .request w => w &&& 0xF00000000000#48 = BitVec.ofNat 48 row
  | .command b => b &&& 0xFF#8 = BitVec.ofNat 8 row

/-- The opcode of a request word is its top four bits. -/
theorem requestWord_opcode (op sub : BitVec 4) (y x : Half) :
    requestWord op sub y x &&& 0xF00000000000#48 = op ++ 0#44 := by
  apply BitVec.eq_of_getLsbD_eq
  intro i hi
  have hm : ∀ i, i < 48 → (0xF00000000000#48).getLsbD i = decide (44 ≤ i) := by decide
  rw [BitVec.getLsbD_and, hm i hi]
  simp only [requestWord, BitVec.getLsbD_append]
  by_cases h : i < 44
  · simp [h]
  · simp [show ¬ i < 44 by omega, show 44 ≤ i by omega, show ¬ i < 40 by omega, show ¬ i - 40 < 4 by omega, Nat.sub_sub]

namespace EncodesItsOwnRow

/-- The encoding of an instruction carries the opcode of its row, whatever its operands. -/
def Statement (i : Instr) : Prop := carriesOpcode (rowMatch i) (encode Config.t0 i)

theorem setup : Statement .setup := (requestWord_opcode _ _ _ _).trans rfl
theorem teardown : Statement .teardown := (requestWord_opcode _ _ _ _).trans rfl
theorem allocate : Statement .allocate := (requestWord_opcode _ _ _ _).trans rfl
theorem fsAttach : Statement .fsAttach := (requestWord_opcode _ _ _ _).trans rfl
theorem setPixel (x y : Half) (c : Colour) : Statement (.setPixel x y c) :=
  (requestWord_opcode _ _ _ _).trans (show _ = BitVec.ofNat 48 0x500000000000 by decide)
theorem update : Statement .update := (requestWord_opcode _ _ _ _).trans rfl
theorem updateByMode (m : FrameType) : Statement (.updateByMode m) :=
  (requestWord_opcode _ _ _ _).trans (show _ = BitVec.ofNat 48 0x700000000000 by decide)
theorem clear : Statement .clear := (requestWord_opcode _ _ _ _).trans rfl
theorem csrRead (reg : RegAddr) : Statement (.csrRead reg) :=
  (requestWord_opcode _ _ _ _).trans (show _ = BitVec.ofNat 48 0x900000000000 by decide)
theorem csrWrite (reg : RegAddr) (v : DataWord) : Statement (.csrWrite reg v) :=
  (requestWord_opcode _ _ _ _).trans (show _ = BitVec.ofNat 48 0xA00000000000 by decide)
theorem fsRd (a : Half) : Statement (.fsRd a) :=
  (requestWord_opcode _ _ _ _).trans (show _ = BitVec.ofNat 48 0xB00000000000 by decide)
theorem fsWr (a : Half) (b : Byte) : Statement (.fsWr a b) :=
  (requestWord_opcode _ _ _ _).trans (show _ = BitVec.ofNat 48 0xC00000000000 by decide)
theorem reserved0 : Statement .reserved0 := (requestWord_opcode _ _ _ _).trans rfl
theorem reservedD : Statement .reservedD := (requestWord_opcode _ _ _ _).trans rfl
theorem reservedE : Statement .reservedE := (requestWord_opcode _ _ _ _).trans rfl
theorem reservedF : Statement .reservedF := (requestWord_opcode _ _ _ _).trans rfl
theorem pSwReset : Statement .pSwReset := rfl
theorem pAnalogBlock : Statement .pAnalogBlock := rfl
theorem pDigitalBlock : Statement .pDigitalBlock := rfl
theorem pGateSetting : Statement .pGateSetting := rfl
theorem pGateVoltage : Statement .pGateVoltage := rfl
theorem pSourceVoltage : Statement .pSourceVoltage := rfl
theorem pDummyLine : Statement .pDummyLine := rfl
theorem pGateLineWidth : Statement .pGateLineWidth := rfl
theorem pDataEntryMode : Statement .pDataEntryMode := rfl
theorem pVcom : Statement .pVcom := rfl
theorem pBorder1 : Statement .pBorder1 := rfl
theorem pBorder2 : Statement .pBorder2 := rfl
theorem pSourceOverride : Statement .pSourceOverride := rfl
theorem pSetLut : Statement .pSetLut := rfl
theorem pRamXRange : Statement .pRamXRange := rfl
theorem pRamYRange : Statement .pRamYRange := rfl
theorem pRamXPtr : Statement .pRamXPtr := rfl
theorem pRamYPtr : Statement .pRamYPtr := rfl
theorem pWriteBw : Statement .pWriteBw := rfl
theorem pWriteColor : Statement .pWriteColor := rfl
theorem pUpdateSeq : Statement .pUpdateSeq := rfl
theorem pTrigger : Statement .pTrigger := rfl
theorem pDeepSleep : Statement .pDeepSleep := rfl

end EncodesItsOwnRow

end Sys2Proof.Laws
end

