-- ==== Sys2Proof/Laws/Sequencer.lean ====
section
/-! SUPPORT. The sequencer said once: where a position stands, what a panel command does in any state, what one core step
at a call does, and how a run of core steps goes through the calls of a phase. -/

namespace Sys2Proof.Machine

/-! ### The call lists do not depend on the position in them -/

@[simp] theorem PanelCmd.calls_afterCalls (c : PanelCmd) (s : State) (cs : List Call) (rest : List Code) :
    PanelCmd.calls c (s.afterCalls cs rest) = PanelCmd.calls c s := by
  cases c <;> rfl

@[simp] theorem Item.calls_afterCalls (it : Item) (s : State) (cs : List Call) (rest : List Code) :
    it.calls (s.afterCalls cs rest) = it.calls s := by
  cases it with
  | call c => rfl
  | send c => exact PanelCmd.calls_afterCalls c s cs rest

@[simp] theorem phaseItems_afterCalls (s : State) (cs : List Call) (rest : List Code) :
    phaseItems (s.afterCalls cs rest) = phaseItems s := rfl

@[simp] theorem phaseCalls_afterCalls (s : State) (cs : List Call) (rest : List Code) :
    phaseCalls (s.afterCalls cs rest) = phaseCalls s := by
  simp [phaseCalls]

theorem afterCalls_append (s : State) (cs ds : List Call) (r rest : List Code) :
    (s.afterCalls cs r).afterCalls ds rest = s.afterCalls (cs ++ ds) rest := by
  simp [State.afterCalls, Nat.add_assoc]

/-! ### Finding an entry -/

/-- The first call of an entry that has a call is found at the number of calls before it. -/
theorem findItem_at (s : State) (pre : List Item) (it : Item) (post : List Item) (h : it.calls s ≠ []) :
    findItem s (pre ++ it :: post) (pre.flatMap fun i => i.calls s).length = some (it, 0) := by
  induction pre with
  | nil =>
    have hpos : 0 < (it.calls s).length := List.length_pos_of_ne_nil h
    simp [findItem, hpos]
  | cons p pre ih =>
    simp only [List.cons_append, List.flatMap_cons, List.length_append, findItem]
    rw [if_neg (by omega), Nat.add_sub_cancel_left]
    exact ih

/-- A number below the number of calls names an entry, and a call inside it. -/
theorem findItem_some (s : State) (its : List Item) (k : Nat) (h : k < (its.flatMap fun i => i.calls s).length) :
    ∃ pre it post j, its = pre ++ it :: post ∧ findItem s its k = some (it, j) ∧ j < (it.calls s).length ∧
      k = (pre.flatMap fun i => i.calls s).length + j := by
  induction its generalizing k with
  | nil => simp at h
  | cons p its ih =>
    unfold findItem
    split
    · exact ⟨[], p, its, k, rfl, rfl, ‹_›, by simp⟩
    · simp only [List.flatMap_cons, List.length_append] at h
      obtain ⟨pre, it, post, j, h1, h2, h3, h4⟩ := ih (k - (p.calls s).length) (by omega)
      exact ⟨p :: pre, it, post, j, by simp [h1], h2, h3, by
        rw [List.flatMap_cons, List.length_append]
        omega⟩

@[simp] theorem findItem_afterCalls (s : State) (cs : List Call) (rest : List Code) (its : List Item) (k : Nat) :
    findItem (s.afterCalls cs rest) its k = findItem s its k := by
  induction its generalizing k with
  | nil => rfl
  | cons it its ih => simp [findItem, ih]

/-! ### A panel command -/

/-- A panel command has a payload that the spec gives it: a range that does not end below 0, a row that is not
empty. -/
def PanelCmd.admitted (c : PanelCmd) (s : State) : Prop :=
  match c with
  | .ramXRange | .writeBw => 0 < s.w8
  | .ramYRange => 0 < s.fsHeight.toNat
  | .swReset | .analogBlock | .digitalBlock | .gateSetting | .gateVoltage | .sourceVoltage | .dummyLine
  | .gateLineWidth | .dataEntryMode | .vcom | .border1 | .border2 | .sourceOverride | .setLut | .ramXPtr | .ramYPtr
  | .writeColor | .updateSeq | .trigger | .deepSleep => True

/-- The commands that are refused are those without a payload (entries 12 and 13). -/
theorem PanelCmd.refusal?_eq_none (c : PanelCmd) (s : State) : PanelCmd.refusal? c s = none ↔ PanelCmd.admitted c s := by
  cases c <;> simp [PanelCmd.refusal?, PanelCmd.admitted, Nat.pos_iff_ne_zero]

/-- A send with a payload that is not empty makes its calls. -/
theorem send_wp (cmd : Byte) (data : List Byte) (s : State) (h : data ≠ []) :
    send (.wp cmd data) s = .next (runCalls (Wire.wp cmd data).calls s).state := by
  cases data with
  | nil => exact absurd rfl h
  | cons b data => rfl

theorem planeRow_ne_nil (s : State) (m : Bool) (p r : Nat) (h : 0 < s.w8) : s.planeRow m p r ≠ [] := by
  intro h0
  have := congrArg List.length h0
  simp [State.planeRow] at this
  omega

theorem colorRow_ne_nil (s : State) (r : Nat) (h : s.colorNonzero r = true) : s.colorRow r ≠ [] := by
  intro h0
  simp [State.colorNonzero, anyNonzero, h0] at h

theorem lut_ne_nil (s : State) : s.lut ≠ [] := by
  unfold State.lut Config.Bytes1.toList
  split
  · simp
  · split <;> simp

/-- What a panel command does: its calls in order, and with all of them answered OK the Sleep send puts the panel to
sleep (43_register_driver, 44_panel_sequencer). -/
theorem exec_panel_eq (c : PanelCmd) (s : State) (h : PanelCmd.admitted c s) :
    exec c.instr s =
      .next (match runCalls (PanelCmd.calls c s) s with
        | .go t => if c = .deepSleep then { t with pstate := .asleep } else t
        | .stop t => t) := by
  have aux : ∀ p : Progress, p.state = match p with
      | .go t => t
      | .stop t => t := by intro p; cases p <;> rfl
  cases c
  case ramXRange =>
    have h : 0 < s.w8 := h
    simp only [PanelCmd.instr, exec, execPRamXRange, PanelCmd.calls, PanelCmd.wire?]
    rw [if_neg (by omega), wireRamXRange, send_wp _ _ _ (by simp [State.xRangePayload]), aux]
    simp
  case ramYRange =>
    have h : 0 < s.fsHeight.toNat := h
    simp only [PanelCmd.instr, exec, execPRamYRange, PanelCmd.calls, PanelCmd.wire?]
    rw [if_neg (by omega), wireRamYRange, send_wp _ _ _ (by simp [State.yRangePayload, pair, pairWith]), aux]
    simp
  case writeBw =>
    simp only [PanelCmd.instr, exec, execPWriteBw, PanelCmd.calls, PanelCmd.wire?, wireWriteBw]
    rw [send_wp _ (s.bwRow s.seq.row.toNat) _ (planeRow_ne_nil s _ _ _ h), aux]
    simp
  case writeColor =>
    simp only [PanelCmd.instr, exec, execPWriteColor, PanelCmd.calls, PanelCmd.wire?, wireWriteColor?]
    split
    · rename_i w hw
      split at hw
      · rename_i hc
        cases hw
        rw [send_wp _ _ _ (colorRow_ne_nil s _ hc), aux]
        simp
      · cases hw
    · rename_i hw
      split at hw
      · cases hw
      · rename_i hc
        simp [runCalls]
  case sourceOverride =>
    simp only [PanelCmd.instr, exec, execPSourceOverride, PanelCmd.calls, PanelCmd.wire?, wireSourceOverride?]
    split
    · rename_i w hw
      split at hw
      · rename_i d hd
        cases hw
        have hne : d ≠ [] := by
          unfold State.sourceOverride? Config.Bytes1.toList at hd
          split at hd
          · cases hd; simp
          · split at hd <;> cases hd
            simp
        rw [send_wp _ _ _ hne, aux]
        simp
      · cases hw
    · rename_i hw
      split at hw
      · cases hw
      · rename_i hd
        simp [runCalls]
  case setLut =>
    simp only [PanelCmd.instr, exec, execPSetLut, PanelCmd.calls, PanelCmd.wire?, wireSetLut]
    rw [send_wp _ _ _ (lut_ne_nil s), aux]
    simp
  case deepSleep =>
    simp only [PanelCmd.instr, exec, execPDeepSleep, PanelCmd.calls, PanelCmd.wire?, if_true]
    cases runCalls (wireDeepSleep s).calls s <;> rfl
  case swReset | trigger =>
    simp only [PanelCmd.instr, exec, execPSwReset, execPTrigger, PanelCmd.calls, PanelCmd.wire?, wireSwReset, wireTrigger, send, aux]
    simp
  all_goals
    simp only [PanelCmd.instr, exec, execPAnalogBlock, execPDigitalBlock, execPGateSetting, execPGateVoltage, execPSourceVoltage,
      execPDummyLine, execPGateLineWidth, execPDataEntryMode, execPVcom, execPBorder1, execPBorder2, execPRamXPtr,
      execPRamYPtr, execPUpdateSeq, PanelCmd.calls, PanelCmd.wire?, wireAnalogBlock, wireDigitalBlock,
      wireGateSetting, wireGateVoltage, wireSourceVoltage, wireDummyLine, wireGateLineWidth, wireDataEntryMode,
      wireVcom, wireBorder1, wireBorder2, wireRamXPtr, wireRamYPtr, wireUpdateSeq, wireFixed]
    rw [send_wp _ _ _ (by simp [Config.Bytes1.toList, State.gatePayload, pair, pairWith]), aux]
    simp

/-! ### Runs of sequencer steps -/

/-- An operation that has ended or waits is as far as the sequencer can take it. -/
theorem runSequencer_done (fuel : Nat) (s : State) (h : s.seq.phase = .idle ∨ s.waiting = true) :
    runSequencer fuel s = .next s := by
  cases fuel with
  | zero => rfl
  | succ n => rw [runSequencer, if_pos h]

theorem runSequencer_step {s t : State} (fuel : Nat) (h : s.seq.phase ≠ .idle) (hw : s.waiting = false)
    (ht : sequencerStep s = .next t) : runSequencer (fuel + 1) s = runSequencer fuel t := by
  rw [runSequencer, if_neg (by simp [h, hw]), ht]

/-- A run that came to the end of its operation, or to a wait, is the same with more fuel. -/
theorem runSequencer_mono {fuel : Nat} {s t : State} (h : runSequencer fuel s = .next t)
    (ht : t.seq.phase = .idle ∨ t.waiting = true) (n : Nat) : runSequencer (fuel + n) s = .next t := by
  induction fuel generalizing s with
  | zero =>
    cases h
    exact runSequencer_done _ _ ht
  | succ fuel ih =>
    rw [show fuel + 1 + n = fuel + n + 1 by omega]
    rw [runSequencer] at h ⊢
    split
    · rwa [if_pos ‹_›] at h
    · rw [if_neg ‹_›] at h
      split at h
      · exact ih h
      · cases h
      · cases h

/-- A run that is refused is refused with more fuel too. -/
theorem runSequencer_refused_mono {fuel : Nat} {s : State} {r : Refusal} (h : runSequencer fuel s = .refused r)
    (n : Nat) : runSequencer (fuel + n) s = .refused r := by
  induction fuel generalizing s with
  | zero => cases h
  | succ fuel ih =>
    rw [show fuel + 1 + n = fuel + n + 1 by omega]
    rw [runSequencer] at h ⊢
    split
    · rw [if_pos ‹_›] at h
      cases h
    · rw [if_neg ‹_›] at h
      split at h
      · exact ih h
      · cases h
      · exact h

/-- After a script that was not carried out whole the operation has ended or waits. -/
theorem stopped_of_runCalls {cs : List Call} {s t : State} (h : runCalls cs s = .stop t) :
    t.seq.phase = .idle ∨ t.waiting = true := by
  obtain ⟨rest, _, h'⟩ | ⟨done, c, after, a, rest, _, _, _, h'⟩ | ⟨done, c, after, _, _, h'⟩ := runCalls_cases cs s
  · rw [h'] at h; cases h
  · rw [h'] at h; cases h; exact .inl rfl
  · rw [h'] at h; cases h; exact .inr rfl

theorem settle_stopped {s : State} (h : s.seq.phase = .idle ∨ s.waiting = true) : settle s = s := by
  unfold settle
  rw [if_pos]
  obtain h | h := h
  · exact .inl h
  · exact .inr (.inl h)

theorem settle_inside {s : State} (h : s.seq.k < (phaseCalls s).length) : settle s = s := by
  unfold settle
  rw [if_pos (.inr (.inr h))]

theorem settle_end {s : State} (h1 : s.seq.phase ≠ .idle) (h2 : s.waiting = false)
    (h3 : (phaseCalls s).length ≤ s.seq.k) : settle s = phaseEnd s := by
  unfold settle
  rw [if_neg]
  simp only [h1, h2, false_or, Bool.false_eq_true]
  omega

theorem runCalls_append (cs ds : List Call) (s : State) :
    runCalls (cs ++ ds) s = match runCalls cs s with
      | .go t => runCalls ds t
      | .stop t => .stop t := by
  induction cs generalizing s with
  | nil => rfl
  | cons c cs ih =>
    rw [List.cons_append, runCalls, runCalls]
    cases cap c s with
    | go t => exact ih t
    | stop t => rfl

/-- A script that is carried out whole leaves the state of its calls. -/
theorem runCalls_go {cs : List Call} {s t : State} (h : runCalls cs s = .go t) :
    ∃ rest, s.answers = List.replicate cs.length Code.ok ++ rest ∧ t = s.afterCalls cs rest := by
  obtain ⟨rest, h1, h'⟩ | ⟨done, c, after, a, rest, _, _, _, h'⟩ | ⟨done, c, after, _, _, h'⟩ := runCalls_cases cs s
  · rw [h'] at h; cases h; exact ⟨rest, h1, rfl⟩
  · rw [h'] at h; cases h
  · rw [h'] at h; cases h

/-! ### One core step at a call -/

/-- Nothing stands in front of call `k` of the phase or row: it is not the LUT's first call under another frame type, nor
the first call of a send without a meaning. -/
def clearAt (s : State) (k : Nat) : Prop :=
  ∀ c, findItem s (phaseItems s) k = some (.send c, 0) → frameTypeFails c s = false ∧ PanelCmd.admitted c s

theorem obstacle?_eq_none {s : State} (h : clearAt s s.seq.k) : obstacle? s = none := by
  unfold obstacle?
  split
  · rename_i c hc
    obtain ⟨h1, h2⟩ := h c hc
    rw [h1, (PanelCmd.refusal?_eq_none c s).mpr h2]
    rfl
  · rfl
  · rfl
  · rfl

@[simp] theorem clearAt_afterCalls (s : State) (cs : List Call) (rest : List Code) (k : Nat) :
    clearAt (s.afterCalls cs rest) k = clearAt s k := by
  unfold clearAt
  rw [phaseItems_afterCalls, findItem_afterCalls]
  apply propext
  constructor <;> intro h c hc <;> have := h c hc <;> cases c <;> exact this

/-- A phase or row in which no panel command is refused and none is the LUT under another frame type is clear
everywhere. -/
theorem clearAt_of_items {s : State} {k : Nat}
    (h : ∀ c, .send c ∈ phaseItems s → frameTypeFails c s = false ∧ PanelCmd.admitted c s) : clearAt s k := by
  intro c hc
  refine h c ?_
  have mem : ∀ (its : List Item) (k : Nat) (it : Item) (j : Nat), findItem s its k = some (it, j) → it ∈ its := by
    intro its
    induction its with
    | nil => intro k it j h; cases h
    | cons i its ih =>
      intro k it j h
      unfold findItem at h
      split at h
      · cases h
        exact List.mem_cons_self
      · exact List.mem_cons_of_mem _ (ih _ _ _ h)
  exact mem _ _ _ _ hc

/-- One core step at a call is that call (10_state R20). -/
theorem sequencerStep_call {s : State} {c : Call} (hw : s.waiting = false) (hc : (phaseCalls s)[s.seq.k]? = some c)
    (ho : clearAt s s.seq.k) : sequencerStep s = .next (settle (cap c s).state) := by
  have hcall : callStep s = .next (settle (cap c s).state) := by
    unfold callStep
    rw [obstacle?_eq_none ho]
    simp only [hc]
  unfold sequencerStep
  rw [if_neg (by simp [hw])]
  split
  · rename_i hp
    simp [phaseCalls, phaseItems, hp] at hc
  · rename_i hp
    simp [phaseCalls, phaseItems, hp] at hc
  all_goals exact hcall

/-- How a run goes on behind a script. -/
def goOn (fuel : Nat) : Progress → Outcome
  | .go t => runSequencer fuel (settle t)
  | .stop t => .next t

/-- A run from a position makes the calls that follow there as one script, one core step for each, and goes on behind them
where all were answered OK (10_state R20, R24; 44_panel_sequencer R230). -/
theorem runSequencer_calls (cs pre post : List Call) (s : State) (hcs : cs ≠ [])
    (hi : phaseCalls s = pre ++ (cs ++ post)) (hk : s.seq.k = pre.length) (hw : s.waiting = false)
    (ho : ∀ j, j < cs.length → clearAt s (s.seq.k + j)) (fuel : Nat) :
    runSequencer (cs.length + fuel) s = goOn fuel (runCalls cs s) := by
  induction cs generalizing pre s with
  | nil => exact absurd rfl hcs
  | cons c cs ih =>
    have hc : (phaseCalls s)[s.seq.k]? = some c := by simp [hi, hk]
    have hph : s.seq.phase ≠ .idle := by
      intro h0
      simp [phaseCalls, phaseItems, h0] at hi
    have hstep := sequencerStep_call hw hc (by simpa using ho 0 (by simp))
    have e : (c :: cs).length + fuel = cs.length + fuel + 1 := by
      rw [List.length_cons]
      omega
    rw [e, runSequencer_step _ hph hw hstep, runCalls]
    cases hr : cap c s with
    | stop t =>
      have ht := stopped_of_runCalls (cs := [c]) (s := s) (t := t) (by rw [runCalls, hr])
      simp only [Progress.state, goOn]
      rw [settle_stopped ht, runSequencer_done _ t ht]
    | go t =>
      obtain ⟨rest, ha, rfl⟩ := runCalls_go (cs := [c]) (s := s) (t := t) (by rw [runCalls, hr]; rfl)
      have hk' : (s.afterCalls [c] rest).seq.k = s.seq.k + 1 := rfl
      simp only [Progress.state]
      cases cs with
      | nil => simp [runCalls, goOn]
      | cons d ds =>
        rw [settle_inside (by rw [phaseCalls_afterCalls, hi, hk', hk]; simp)]
        refine ih (pre ++ [c]) (s.afterCalls [c] rest) (by simp) (by simp [hi]) (by simp [hk', hk]) hw ?_
        intro j hj
        rw [clearAt_afterCalls, hk']
        have := ho (j + 1) (by simpa using hj)
        rwa [show s.seq.k + 1 + j = s.seq.k + (j + 1) by omega]

/-- How a run goes on behind all the calls of a phase or row. -/
def goOnEnd (fuel : Nat) : Progress → Outcome
  | .go t => runSequencer fuel (phaseEnd t)
  | .stop t => .next t

/-- The same for a whole phase or row: all its calls, and then its end. -/
theorem runSequencer_phase (s : State) (hne : phaseCalls s ≠ []) (hk : s.seq.k = 0) (hw : s.waiting = false)
    (ho : ∀ c, .send c ∈ phaseItems s → frameTypeFails c s = false ∧ PanelCmd.admitted c s) (fuel : Nat) :
    runSequencer ((phaseCalls s).length + fuel) s = goOnEnd fuel (runCalls (phaseCalls s) s) := by
  rw [runSequencer_calls (phaseCalls s) [] [] s hne (by simp) hk hw (fun j _ => clearAt_of_items ho)]
  cases hr : runCalls (phaseCalls s) s with
  | stop t => rfl
  | go t =>
    obtain ⟨rest, _, rfl⟩ := runCalls_go hr
    have hph : s.seq.phase ≠ .idle := by
      intro h0
      simp [phaseCalls, phaseItems, h0] at hne
    simp only [goOn, goOnEnd]
    rw [settle_end (s := s.afterCalls _ rest) hph hw]
    rw [phaseCalls_afterCalls]
    simp [State.afterCalls, hk]

/-! ### Steps of the machine -/

/-- In an operation in progress the machine's step is the sequencer's. -/
theorem step_busy {s : State} (h : s.seq.phase ≠ .idle) : step s = sequencerStep s := if_neg h

theorem run_zero (s : State) : Host.Core.run Sys2Proof.core 0 s = .next s := rfl

theorem run_next {s t : State} (n : Nat) (h : step s = .next t) :
    Host.Core.run Sys2Proof.core (n + 1) s = Host.Core.run Sys2Proof.core n t := by
  have h : Sys2Proof.core.step s = _ := h
  simp only [Host.Core.run, h]

theorem run_refused {s : State} {r : Refusal} (n : Nat) (h : step s = .refused r) :
    Host.Core.run Sys2Proof.core (n + 1) s = .refused r := by
  have h : Sys2Proof.core.step s = _ := h
  simp only [Host.Core.run, h]

theorem run_fault {s : State} {f : Fault} (n : Nat) (h : step s = .fault f) :
    Host.Core.run Sys2Proof.core (n + 1) s = .fault f := by
  have h : Sys2Proof.core.step s = _ := h
  simp only [Host.Core.run, h]

/-- A run of the sequencer is a run of the machine, of as many core steps as it takes, and at least one where there is
something to do. -/
theorem runSequencer_is_run (fuel : Nat) (s : State) :
    ∃ n, (0 < fuel → s.seq.phase ≠ .idle → s.waiting = false → 1 ≤ n) ∧
      Host.Core.run Sys2Proof.core n s = runSequencer fuel s := by
  induction fuel generalizing s with
  | zero => exact ⟨0, fun h => absurd h (Nat.lt_irrefl 0), rfl⟩
  | succ fuel ih =>
    by_cases h : s.seq.phase = .idle ∨ s.waiting = true
    · exact ⟨0, fun _ h1 h2 => by simp [h1, h2] at h, by rw [runSequencer_done _ _ h]; rfl⟩
    · have hs : step s = sequencerStep s := step_busy fun h0 => h (.inl h0)
      rw [runSequencer, if_neg h]
      cases hr : sequencerStep s with
      | next t =>
        obtain ⟨n, _, hn⟩ := ih t
        exact ⟨n + 1, fun _ _ _ => Nat.le_add_left 1 n, (run_next n (hs.trans hr)).trans hn⟩
      | fault f => exact ⟨1, fun _ _ _ => Nat.le_refl 1, run_fault 0 (hs.trans hr)⟩
      | refused r => exact ⟨1, fun _ _ _ => Nat.le_refl 1, run_refused 0 (hs.trans hr)⟩

end Sys2Proof.Machine
end

