-- ==== Sys2Proof/Tests/Slice0.lean ====
section
/-! SUPPORT. The model's own tests: decodings written out from the spec's encodings, ill-formed words that the checks
refuse, single steps with results from 95_test_vectors or worked by hand from a rule, and for each statement with
hypotheses a state and operands that meet them. -/

open Sys2Proof Sys2Proof.Machine Sys2Proof.Claims
open Sys2Proof.Config (panel)

namespace Sys2Proof.Tests

/-! ### Decoding: request words bit by bit from 30_encoding R91 and R92 (op in 47:44, sub in 43:40, y in 31:16, x in
15:0), panel identifiers from 00_scope R11's T0 column -/

theorem test_decode_setup : decodeRequest 0x100000000000 = .setup := by decide
theorem test_decode_teardown : decodeRequest 0x200000000000 = .teardown := by decide
theorem test_decode_allocate : decodeRequest 0x300000000000 = .allocate := by decide
theorem test_decode_fs_attach : decodeRequest 0x400000000000 = .fsAttach := by decide
theorem test_decode_set_pixel : decodeRequest 0x520000010008 = .setPixel 8 1 .red := by decide
theorem test_decode_update : decodeRequest 0x600000000000 = .update := by decide
theorem test_decode_update_by_mode : decodeRequest 0x710000000000 = .updateByMode .diff := by decide
theorem test_decode_clear : decodeRequest 0x800000000000 = .clear := by decide
theorem test_decode_csr_read : decodeRequest 0x9B0000000000 = .csrRead 0xB := by decide
theorem test_decode_csr_write : decodeRequest 0xA400ABCD0002 = .csrWrite 4 0xABCD0002 := by decide
theorem test_decode_fs_rd : decodeRequest 0xB00000001DC8 = .fsRd 7624 := by decide
theorem test_decode_fs_wr : decodeRequest 0xC00000FF0003 = .fsWr 3 0xFF := by decide
theorem test_decode_reserved_0 : decodeRequest 0x000000000000 = .reserved0 := by decide
theorem test_decode_reserved_d : decodeRequest 0xD00000000000 = .reservedD := by decide
theorem test_decode_reserved_e : decodeRequest 0xE00000000000 = .reservedE := by decide
theorem test_decode_reserved_f : decodeRequest 0xF00000000000 = .reservedF := by decide
theorem test_decode_p_sw_reset : decodeTableWord 8 0x12 = some .pSwReset := by decide
theorem test_decode_p_analog_block : decodeTableWord 8 0x74 = some .pAnalogBlock := by decide
theorem test_decode_p_digital_block : decodeTableWord 8 0x7E = some .pDigitalBlock := by decide
theorem test_decode_p_gate_setting : decodeTableWord 8 0x01 = some .pGateSetting := by decide
theorem test_decode_p_gate_voltage : decodeTableWord 8 0x03 = some .pGateVoltage := by decide
theorem test_decode_p_source_voltage : decodeTableWord 8 0x04 = some .pSourceVoltage := by decide
theorem test_decode_p_dummy_line : decodeTableWord 8 0x3A = some .pDummyLine := by decide
theorem test_decode_p_gate_line_width : decodeTableWord 8 0x3B = some .pGateLineWidth := by decide
theorem test_decode_p_data_entry_mode : decodeTableWord 8 0x11 = some .pDataEntryMode := by decide
theorem test_decode_p_vcom : decodeTableWord 8 0x2C = some .pVcom := by decide
theorem test_decode_p_border_1 : decodeTableWord 8 0x3C = some .pBorder1 := by decide
theorem test_decode_p_set_lut : decodeTableWord 8 0x32 = some .pSetLut := by decide
theorem test_decode_p_ram_x_range : decodeTableWord 8 0x44 = some .pRamXRange := by decide
theorem test_decode_p_ram_y_range : decodeTableWord 8 0x45 = some .pRamYRange := by decide
theorem test_decode_p_ram_x_ptr : decodeTableWord 8 0x4E = some .pRamXPtr := by decide
theorem test_decode_p_ram_y_ptr : decodeTableWord 8 0x4F = some .pRamYPtr := by decide
theorem test_decode_p_write_bw : decodeTableWord 8 0x24 = some .pWriteBw := by decide
theorem test_decode_p_write_color : decodeTableWord 8 0x26 = some .pWriteColor := by decide
theorem test_decode_p_update_seq : decodeTableWord 8 0x22 = some .pUpdateSeq := by decide
theorem test_decode_p_trigger : decodeTableWord 8 0x20 = some .pTrigger := by decide
theorem test_decode_p_deep_sleep : decodeTableWord 8 0x10 = some .pDeepSleep := by decide

/-- P_BORDER_2 has an identifier of its own; only T0 gives it that of P_BORDER_1 (entry 9). -/
theorem test_decode_p_border_2 :
    decode { Config.t0 with cmdBorder2 := 0x3D } (.command 0x3D) = .ok .pBorder2 := by rfl

/-- P_SOURCE_OVERRIDE is P_SOURCE_VOLTAGE's command sent again (30_encoding R101), so their words are the same. -/
theorem test_encode_p_source_override : encode Config.t0 .pSourceOverride = .command 0x04 := by rfl

/-- V140 of 95_test_vectors: the reserved byte is ignored. -/
theorem test_decode_ignores_rsv : decodeRequest 0x51FF00000000 = decodeRequest 0x510000000000 := by decide

/-- A byte that is no identifier is rejected by name. -/
theorem test_decode_rejects_unknown : decode Config.t0 (.command 0x99) = .error (.unknownCommand 0x99) := by rfl

/-! ### Well-formedness: one ill-formed word for each check (30_encoding R91) -/

theorem test_wf_accepts : wellFormedRequest 0xAF00FFFFFFFF = true := by decide
theorem test_wf_refuses_rsv : rsvIsZero 0x51FF00000000 = false := by decide
theorem test_wf_refuses_sub : subIsClean 0x540000000000 = false := by decide
theorem test_wf_refuses_y : yIsClean 0xC00001000000 = false := by decide
theorem test_wf_refuses_x : xIsClean 0x600000000001 = false := by decide

/-! ### Helpers -/

/-- A supplied w by h Frame Store of n bytes with every colour enabled, its first bytes listed as given. -/
def store (w h n : Half) (cells : List Host.Cell) : State :=
  { State.reset with
    fsWidth := w, fsHeight := h, fsBytelen := n, fsValid := true, fsExternal := true, colorcap := 0xF
    buf := ⟨cells, 0⟩ }

/-- The smallest Frame Store that UPDATE admits, all white. -/
def small : State := store 8 1 2 [(0, 0), (1, 0)]

/-- The 16 by 2 Frame Store of program P1 after its step 20. -/
def p1 : State :=
  { store 16 2 8 [(0, 0x09), (1, 0), (2, 0), (3, 0x40), (4, 0), (5, 0), (6, 0x06), (7, 0)] with
    product := 2, colorcap := 0x7 }

/-- The state with answers at hand. -/
def answering (s : State) (l : List Code) : State := { s with answers := l }

/-- The state with an operation in progress at a position. -/
def inPhase (s : State) (ph : Phase) (row : Half) (k : Nat) : State :=
  { s with seq := ⟨ph, row, k⟩, latch := { s.latch with op := 6 } }

/-- The next state of an outcome, or a state of one's own where there is none. -/
def nextOr (d : State) : Outcome → State
  | .next t => t
  | .fault _ | .refused _ => d

/-- The response of an operation. -/
def answerOf (i : Instr) (s : State) : Option Response := (nextOr State.reset (exec i s)).response

/-- The bus writes of a trace, in order. -/
def writesOf (t : List Event) : List (List Byte) :=
  t.filterMap fun e =>
    match e.call with
    | .busWrite b => some b
    | .gpioInit | .gpioConfigure _ _ _ _ | .gpioWrite _ _ | .gpioRead _ | .gpioPollUntil _ _ | .busInit | .delay _ => none

/-- The bus writes of an instruction whose every call is answered OK. -/
def writes (i : Instr) (s : State) : List (List Byte) :=
  writesOf (nextOr State.reset (exec i (answering s [0, 0, 0, 0]))).trace

/-! ### One operation each (95_test_vectors, the vector's number in the comment) -/

-- V40, V41, V42, V44
theorem test_allocate_wide :
    let t := nextOr State.reset (exec .allocate State.reset)
    (t.fsWidth, t.fsHeight, t.fsBytelen, t.statusWord, t.readByte 0) = (400, 300, 30000, 0b00001, 0) := by rfl
theorem test_allocate_custom : answerOf .allocate { State.reset with product := 2 } = some ⟨1, 0⟩ := by decide
-- V46, V47
theorem test_fs_attach : (nextOr State.reset (exec .fsAttach { small with fsValid := false })).statusWord = 0b00011 := by
  decide
theorem test_fs_attach_twice : answerOf .fsAttach small = some ⟨8, 0⟩ := by decide
-- V48
theorem test_teardown :
    let t := nextOr State.reset (exec .teardown { small with activeValid := true })
    (t.statusWord, t.fsWidth, t.readByte 0) = (0, 8, Config.freeByte 1 0) := by rfl
-- V23, and V30's neighbours
theorem test_set_pixel : (nextOr State.reset (exec (.setPixel 1 0 .red) (store 8 1 2 [(0, 0x01)]))).readByte 0 = 0x09 := by
  decide
theorem test_set_pixel_replaces :
    (nextOr State.reset (exec (.setPixel 2 0 .black) (store 8 1 2 [(0, 0xAA)]))).readByte 0 = 0x9A := by decide
-- R138: the stored codes of a red panel, and 10 where yellow has the priority or neither flag is set
theorem test_colours :
    let red := { small with colorcap := 0x7 }
    (red.colourOf 0, red.colourOf 1, red.colourOf 2, red.colourOf 3, small.colourOf 2,
        { small with colorcap := 0x3 }.colourOf 2) =
      (some .white, some .black, some .red, none, some .yellow, none) := by decide
-- V110, V112
theorem test_update_not_configured : answerOf .update State.reset = some ⟨6, 0⟩ := by decide
theorem test_update_poll_times_out :
    let t := nextOr State.reset (exec .update (answering p1 [0, 0, 0, 0, 0, 0, 2]))
    (t.trace.length, t.result, t.statusWord) = (7, 2, 0b11011) := by rfl
-- V117
theorem test_update_by_mode_overlay : answerOf (.updateByMode .overlay) p1 = some ⟨1, 0⟩ := by decide
theorem test_update_by_mode_full : answerOf (.updateByMode .alwaysFull) State.reset = some ⟨6, 0⟩ := by decide
-- P4 step 3, P5's variant with white off
theorem test_clear_not_configured : answerOf .clear State.reset = some ⟨6, 0⟩ := by decide
theorem test_clear_without_white : answerOf .clear { p1 with colorcap := 0x2 } = some ⟨1, 0⟩ := by decide
-- V138, V131
theorem test_csr_read_result :
    let t := nextOr State.reset (exec (.csrRead 0xA) { State.reset with result := 5 })
    (t.response, t.result) = (some ⟨0, 5⟩, 0) := by decide
theorem test_csr_read_reserved : answerOf (.csrRead 0xB) State.reset = some ⟨5, 0⟩ := by decide
-- V130, V133
theorem test_csr_write_colorcap :
    (nextOr State.reset (exec (.csrWrite 1 0xFFFFFFF7) State.reset)).colorcap = 0b0111 := by decide
theorem test_csr_write_locked : answerOf (.csrWrite 3 16) small = some ⟨3, 0⟩ := by decide
-- V137, and R282 at the capacity
theorem test_fs_rd : answerOf (.fsRd 7624) (store 122 250 7625 [(7624, 0x40)]) = some ⟨0, 0x40⟩ := by decide
theorem test_fs_rd_end : answerOf (.fsRd 65535) small = some ⟨5, 0⟩ := by decide
-- V135, V136
theorem test_fs_wr_locked : answerOf (.fsWr 0 0xFF) small = some ⟨3, 0⟩ := by decide
theorem test_fs_wr_end : answerOf (.fsWr 65535 0) State.reset = some ⟨5, 0⟩ := by decide
-- R274's example: twelve calls, STATUS 0b01001
theorem test_setup :
    let t := nextOr State.reset (exec .setup (answering State.reset (oks 12 [])))
    (t.trace.length, t.statusWord, t.result) = (12, 0b01001, 0) := by rfl
theorem test_setup_custom :
    let t := nextOr State.reset (exec .setup (answering { State.reset with product := 2 } (oks 5 [])))
    (t.trace.length, t.statusWord, t.result) = (5, 0, 1) := by rfl
-- V139
theorem test_reserved_0 : answerOf .reserved0 State.reset = some ⟨1, 0⟩ := by decide
theorem test_reserved_d : answerOf .reservedD State.reset = some ⟨1, 0⟩ := by decide
theorem test_reserved_e : answerOf .reservedE State.reset = some ⟨1, 0⟩ := by decide
theorem test_reserved_f : answerOf .reservedF State.reset = some ⟨1, 0⟩ := by decide

/-! ### One panel command each (43_register_driver; payloads from 95_test_vectors L2.6 where they are numbers) -/

theorem test_p_sw_reset : writes .pSwReset small = [[panel.cmdSwReset]] := by rfl
theorem test_p_analog_block :
    writes .pAnalogBlock small = [[panel.cmdAnalogBlock], panel.argAnalogBlock.toList] := by rfl
theorem test_p_digital_block :
    writes .pDigitalBlock small = [[panel.cmdDigitalBlock], panel.argDigitalBlock.toList] := by rfl
-- V80
theorem test_p_gate_setting :
    writes .pGateSetting { small with fsHeight := 300 } = [[panel.cmdGateSetting], [0x4B, 0x2C]] := by rfl
theorem test_p_gate_voltage :
    writes .pGateVoltage small = [[panel.cmdGateVoltage], panel.argGateVoltage.toList] := by rfl
theorem test_p_source_voltage :
    writes .pSourceVoltage small = [[panel.cmdSourceVoltage], panel.argSourceVoltage.toList] := by rfl
theorem test_p_dummy_line : writes .pDummyLine small = [[panel.cmdDummyLine], panel.argDummyLine.toList] := by rfl
theorem test_p_gate_line_width :
    writes .pGateLineWidth small = [[panel.cmdGateLineWidth], panel.argGateLineWidth.toList] := by rfl
theorem test_p_data_entry_mode :
    writes .pDataEntryMode small = [[panel.cmdDataEntryMode], panel.argDataEntryMode.toList] := by rfl
theorem test_p_vcom : writes .pVcom small = [[panel.cmdVcom], panel.argVcom.toList] := by rfl
theorem test_p_border_1 : writes .pBorder1 small = [[panel.cmdBorder1], panel.argBorder1.toList] := by rfl
theorem test_p_border_2 : writes .pBorder2 small = [[panel.cmdBorder2], panel.argBorder2.toList] := by rfl
-- V91, V92
theorem test_p_source_override_red_wide :
    writes .pSourceOverride { small with colorcap := 0x7 } =
      [[panel.cmdSourceVoltage], panel.argSourceOverrideRed.toList] := by rfl
theorem test_p_source_override_red_narrow :
    writes .pSourceOverride { small with colorcap := 0x7, product := 1 } = [] := by rfl
-- V95, V90
theorem test_p_set_lut_yellow : writes .pSetLut small = [[panel.cmdSetLut], panel.lutYellow.toList] := by rfl
theorem test_p_set_lut_bw :
    writes .pSetLut { small with colorcap := 0x3 } = [[panel.cmdSetLut], panel.lutBw.toList] := by rfl
-- V84, V83
theorem test_p_ram_x_range_narrow :
    writes .pRamXRange { small with fsWidth := 122 } = [[panel.cmdRamXRange], [0x00, 0x0E]] := by rfl
-- V87, V89
theorem test_p_ram_y_range_wide :
    writes .pRamYRange { small with fsHeight := 300 } = [[panel.cmdRamYRange], [0x00, 0x00, 0x4A, 0x2B]] := by rfl
theorem test_p_ram_y_range_one : writes .pRamYRange small = [[panel.cmdRamYRange], [0, 0, 0, 0]] := by rfl
theorem test_p_ram_x_ptr : writes .pRamXPtr small = [[panel.cmdRamXPtr], [0x00]] := by rfl
-- V71
theorem test_p_ram_y_ptr :
    writes .pRamYPtr (inPhase small .rows 5 0) = [[panel.cmdRamYPtr], [0x01, 0x05]] := by rfl
-- V65
theorem test_p_write_bw : writes .pWriteBw p1 = [[panel.cmdWriteBw], [0x80, 0x01]] := by rfl
theorem test_p_write_color :
    writes .pWriteColor (inPhase p1 .rows 1 0) = [[panel.cmdWriteColor], [0x00, 0x80]] := by rfl
-- R250: an all-zero colour row is not sent
theorem test_p_write_color_white : writes .pWriteColor small = [] := by rfl
theorem test_p_update_seq : writes .pUpdateSeq small = [[panel.cmdUpdateSeq], [panel.argUpdateSeq]] := by rfl
theorem test_p_trigger : writes .pTrigger small = [[panel.cmdTrigger]] := by rfl
-- V72
theorem test_p_deep_sleep : writes .pDeepSleep small = [[panel.cmdDeepSleep], [panel.argDeepSleep]] := by rfl
-- V73: the second call fails
theorem test_p_vcom_fails :
    let t := nextOr State.reset (exec .pVcom (answering small [0, 9]))
    (t.trace.length, t.result) = (2, 9) := by rfl

/-! ### Sizes, rows and pixel addresses (95_test_vectors L2.1, L2.3, L2.4, L2.7) -/

-- V7, V13
theorem test_address_wide_end : (byteOf 400 399 299, offOf 400 399 299) = (29999, 6) := by decide
theorem test_address_narrow_end : (byteOf 122 121 249, offOf 122 121 249) = (7624, 6) := by decide
-- V61: the code 11 sets both planes
theorem test_row_both_planes :
    let s := store 8 1 2 [(0, 0x39), (1, 0x25)]
    (s.bwRow 0, s.colorRow 0) = ([0xAC], [0x62]) := by decide
-- the pairs 255 and 65535 of L2.3
theorem test_pair : (pair 255, pair 65535) = ([0x3F, 0xFF], [0xFF, 0xFF]) := by decide
-- V105: a whole update of the 16 by 2 store makes 123 calls and 58 bus writes
theorem test_update_size : (updateScript p1).length = 123 ∧ ((updateScript p1).filter isBusWrite).length = 58 :=
  ⟨rfl, rfl⟩

/-! ### The step -/

/-- One request at the port of a core with the given answers. -/
def requested (w : RequestWord) (s : State) : State := { s with requests := [w] }

/-- R151: ALLOCATE stands in LOCAL, PHASE 7, until its zero fill, which ends it; two core steps, no call. -/
theorem test_steps_of_allocate :
    let t := nextOr State.reset (step (requested 0x300000000000 State.reset))
    let u := nextOr State.reset (step t)
    (t.seq.phase.code, t.fsValid, u.seq, u.fsValid, u.trace) = (7, false, Seq.idle, true, []) := by rfl

/-- R260: CLEAR stands in LOCAL until its pixel loop, behind which its update stands at the first call of Reset. -/
theorem test_steps_of_clear :
    let t := nextOr State.reset (step (requested 0x800000000000 { small with buf := ⟨[(0, 0xFF), (1, 0)], 0⟩ }))
    let u := nextOr State.reset (step t)
    (t.seq.phase.code, t.readByte 0, u.seq, u.readByte 0, u.trace) = (7, 0xFF, ⟨.reset, 0, 0⟩, 0, []) := by rfl

/-- R20: the acceptance of UPDATE makes no call, and each core step after it one. -/
theorem test_steps_of_update :
    let t := nextOr State.reset (step (requested 0x600000000000 (answering small [0, 0])))
    let u := nextOr State.reset (step t)
    (t.seq, t.trace, u.seq, u.trace.map fun e => e.call) = (⟨.reset, 0, 0⟩, [], ⟨.reset, 0, 1⟩, [.gpioWrite .reset .low]) := by
  rfl

/-- A request word is fetched at the port of an idle core and executed. -/
theorem test_fetch_request :
    (nextOr State.reset (step (State.reset.withFetchWord 48 0x9B0000000000))).response = some ⟨5, 0⟩ := by decide

/-- A panel command is fetched at its place in an update; with no answer at hand its first call waits. -/
theorem test_fetch_command :
    let t := nextOr State.reset (step (State.reset.withFetchWord 8 0x26))
    (t.trace.map fun e => e.call, t.waiting, t.seq) = ([.gpioWrite .dc .low], true, ⟨.rows, 0, 20⟩) := by rfl

/-- Block reset with no request: the core stays idle (45_session_and_host_port R270). -/
theorem test_reset_stays_idle : step State.reset = .next State.reset := by rfl

/-! ### Witnesses: for each statement with hypotheses, and each of its clauses, a state and operands that meet them,
at a boundary of their range where there is one -/

theorem witness_IgnoredFieldsDoNotMatter :
    let w : RequestWord := 0x50000000FFFF
    let w' : RequestWord := 0x5CFF0000FFFF
    w ≠ w' ∧ w.extractLsb' 44 4 = w'.extractLsb' 44 4 ∧
    (w.extractLsb' 40 4).toNat % 2 ^ (fieldsRead (w.extractLsb' 44 4)).1 =
      (w'.extractLsb' 40 4).toNat % 2 ^ (fieldsRead (w.extractLsb' 44 4)).1 ∧
    (w.extractLsb' 16 16).toNat % 2 ^ (fieldsRead (w.extractLsb' 44 4)).2.1 =
      (w'.extractLsb' 16 16).toNat % 2 ^ (fieldsRead (w.extractLsb' 44 4)).2.1 ∧
    (w.extractLsb' 0 16).toNat % 2 ^ (fieldsRead (w.extractLsb' 44 4)).2.2 =
      (w'.extractLsb' 0 16).toNat % 2 ^ (fieldsRead (w.extractLsb' 44 4)).2.2 := by decide

theorem witness_HostOperationsRoundTrip : (Instr.setPixel 0xFFFF 0xFFFF .yellow).panelCmd? = none := by decide

theorem witness_WellFormedWordsRoundTrip : wellFormedRequest 0xC00000FFFFFF = true := by decide

/-- A table in which all identifiers differ: T0 with another byte for P_BORDER_2. -/
def distinctIds : Config.OpenParams := { Config.t0 with cmdBorder2 := 0x3D }

theorem witness_PanelIdentifiersRoundTrip :
    ∀ a b : CommandId, identifier distinctIds a = identifier distinctIds b → a = b := by
  intro a b h
  have back : ∀ c : CommandId, findIdentifier distinctIds (identifier distinctIds c) commandIds = some c := by
    intro c
    cases c <;> rfl
  have hb := back b
  rw [← h, back a] at hb
  exact Option.some.inj hb

theorem witness_PanelIdentifiersRoundTrip_command : PanelCmd.deepSleep ≠ .sourceOverride := by decide

/-- An idle core with one request. -/
def asked : State := { State.reset with requests := [0x100000000000] }

theorem witness_StepRunsTheRequest :
    asked.seq.phase = .idle ∧ asked.requests = 0x100000000000 :: [] ∧ ∃ t, step asked = .next t :=
  ⟨rfl, rfl, _, rfl⟩

theorem witness_StepRunsTheRequest_short : ¬ longOperation (decodeRequest 0x9B0000000000) := by
  rw [test_decode_csr_read]
  rintro (h | h | h | ⟨_, h⟩ | h) <;> cases h

theorem witness_StepRunsThePanelCommand_lut :
    let s := inPhase { small with colorcap := 0x3 } .init 0 44
    s.seq.phase ≠ .idle ∧ s.waiting = false ∧ findItem s (phaseItems s) s.seq.k = some (.send .setLut, 0) ∧
    s.frametype = 0 := ⟨by decide, rfl, rfl, rfl⟩

theorem witness_StepRunsThePanelCommand_refused :
    let s := { inPhase (store 7 1 2 []) .window 0 0 with frametype := 0 }
    s.seq.phase ≠ .idle ∧ s.waiting = false ∧ findItem s (phaseItems s) s.seq.k = some (.send .ramXRange, 0) ∧
    exec PanelCmd.ramXRange.instr s = .refused .dimensionsNotAdmitted := ⟨by decide, rfl, rfl, rfl⟩

theorem witness_StepRunsThePanelCommand_reset :
    let s := inPhase small .reset 0 4
    s.seq.phase ≠ .idle ∧ s.waiting = false ∧ findItem s (phaseItems s) s.seq.k = some (.send .swReset, 0) :=
  ⟨by decide, rfl, rfl⟩

/-- A core that waits for the answer of its first Reset call. -/
def waitingCore : State := { inPhase small .reset 0 0 with waiting := true, requests := [0x600000000000] }

theorem witness_BusyPortKeepsRequests_busy :
    waitingCore.seq.phase ≠ .idle ∧ step waitingCore = .next waitingCore := ⟨by decide, rfl⟩

theorem witness_BusyPortKeepsRequests_idle : State.reset.seq.phase = .idle ∧ State.reset.requests = [] := ⟨rfl, rfl⟩

theorem witness_UnansweredCallHangs :
    waitingCore.seq.phase ≠ .idle ∧ waitingCore.waiting = true ∧ waitingCore.answers = [] := ⟨by decide, rfl, rfl⟩

theorem witness_UnansweredCallHangs_answer :
    let s := { answering waitingCore [0] with seq := ⟨.reset, 0, 5⟩ }
    s.seq.phase ≠ .idle ∧ s.waiting = true ∧ s.answers = 0 :: [] ∧ s.seq.k + 1 < (phaseCalls s).length :=
  ⟨by decide, rfl, rfl, by decide⟩

/-- The last call of each phase: pin configuration with each kind of product, the Reset phase of SETUP and of an update,
the last row and one before it, and the others. -/
theorem witness_UnansweredCallHangs_last :
    (∀ s ∈ [inPhase small .localPins 0 4, inPhase State.reset .localPins 0 4,
        inPhase { State.reset with product := 3 } .localPins 0 4, inPhase small .reset 0 6,
        { inPhase small .reset 0 6 with latch := ⟨1, 0, 0, 0⟩ }, inPhase { small with colorcap := 0x3 } .init 0 47,
        inPhase small .window 0 7, inPhase { small with fsHeight := 2 } .rows 0 11, inPhase small .rows 0 11,
        inPhase small .trigger 0 7, inPhase small .sleep 0 3],
      s.seq.phase ≠ .idle ∧ s.seq.k + 1 = (phaseCalls s).length) ∧
    (answering waitingCore [0]).waiting = true ∧ (answering waitingCore [0]).answers = 0 :: [] := by
  refine ⟨?_, rfl, rfl⟩
  simp only [List.forall_mem_cons]
  exact ⟨⟨by decide, rfl⟩, ⟨by decide, rfl⟩, ⟨by decide, rfl⟩, ⟨by decide, rfl⟩, ⟨by decide, rfl⟩, ⟨by decide, rfl⟩,
    ⟨by decide, rfl⟩, ⟨by decide, rfl⟩, ⟨by decide, rfl⟩, ⟨by decide, rfl⟩, ⟨by decide, rfl⟩,
    fun _ h => absurd h List.not_mem_nil⟩

theorem witness_UnansweredCallHangs_failure :
    let s := answering waitingCore [15]
    s.seq.phase ≠ .idle ∧ s.waiting = true ∧ s.answers = 15 :: [] ∧ (15 : Code) ≠ 0 := ⟨by decide, rfl, rfl, by decide⟩

/-- A call of its own, and the first call of the black and white row, which has a premise on the dimensions. -/
theorem witness_StepMakesOneCall :
    (let s := inPhase small .reset 0 0
     s.seq.phase ≠ .idle ∧ s.waiting = false ∧ (phaseCalls s)[s.seq.k]? = some (.gpioWrite .reset .low) ∧
     findItem s (phaseItems s) s.seq.k = some (.call (.gpioWrite .reset .low), 0) ∧ s.answers = [] ∧
     s.seq.k + 1 < (phaseCalls s).length) ∧
    (let s := inPhase small .rows 0 8
     s.seq.phase ≠ .idle ∧ s.waiting = false ∧ (phaseCalls s)[s.seq.k]? = some (.gpioWrite .dc .low) ∧
     findItem s (phaseItems s) s.seq.k = some (.send .writeBw, 0) ∧ 8 ≤ s.fsWidth.toNat) :=
  ⟨⟨by decide, rfl, rfl, rfl, rfl, by decide⟩, by decide, rfl, rfl, rfl, by decide⟩

/-- The last call of a row, answered OK or not. -/
theorem witness_StepMakesOneCall_last :
    let s := inPhase small .rows 0 11
    (phaseCalls s)[s.seq.k]? = some (.busWrite [0]) ∧ s.seq.k + 1 = (phaseCalls s).length ∧
    (answering s [0]).answers = 0 :: [] ∧ (answering s [9]).answers = 9 :: [] ∧ (9 : Code) ≠ 0 :=
  ⟨rfl, rfl, rfl, rfl, by decide⟩

theorem witness_StepMakesOneCall_frame_type :
    let s := inPhase { small with colorcap := 0x3, frametype := 1 } .init 0 44
    s.seq.phase ≠ .idle ∧ s.waiting = false ∧ findItem s (phaseItems s) s.seq.k = some (.send .setLut, 0) ∧
    s.frametype ≠ 0 := ⟨by decide, rfl, rfl, by decide⟩

theorem witness_StepMakesOneCall_local :
    (∃ t, step (inPhase State.reset .localFill 0 0) = .next t) ∧
    ∃ t, step (inPhase small .localPixels 0 0) = .next t := ⟨⟨_, rfl⟩, ⟨_, rfl⟩⟩

theorem witness_CsrReadAnswers_reserved : 0xB ≤ (0xB : RegAddr).toNat ∧ 0xB ≤ (0xF : RegAddr).toNat := by decide

theorem witness_CsrWriteStores :
    State.reset.fsValid = false ∧ small.fsValid = true ∧
    ((0x5 : RegAddr) = 0x3 ∨ (0x5 : RegAddr) = 0x4 ∨ (0x5 : RegAddr) = 0x5) ∧ 0xB ≤ (0xB : RegAddr).toNat := by decide

theorem witness_CsrWriteThenRead :
    let s := State.reset
    let t := { s with fsBytelen := 0xFFFF }.finish 0 0
    exec (.csrWrite 0x5 0xFFFFFFFF) s = .next t ∧ t.result = 0 ∧ exec (.csrRead 0x5) t = .next (t.finish 0 0xFFFF) ∧
    (0x9 : RegAddr) ≠ 0x5 ∧ (0x9 : RegAddr) ≠ 0xA := ⟨rfl, rfl, rfl, by decide, by decide⟩

theorem witness_FsRdAnswersTheByte :
    ((65534 : Half).toNat < 65535 ∧ State.reset.fsValid = false) ∧
    ((1 : Half).toNat < 65535 ∧ (1 : Half).toNat < small.fsBytelen.toNat) ∧
    ((2 : Half).toNat < 65535 ∧ small.fsValid = true ∧ small.fsBytelen.toNat ≤ (2 : Half).toNat) ∧
    65535 ≤ (65535 : Half).toNat := by decide

theorem witness_FsWrStoresTheByte :
    State.reset.fsValid = false ∧ (65534 : Half).toNat < 65535 ∧ 65535 ≤ (65535 : Half).toNat ∧
    small.fsValid = true := by decide

theorem witness_AllocateMakesAWhiteStore_wide :
    let s := State.reset
    s.fsValid = false ∧ (s.product = 0 ∧ 400 = 400 ∧ 300 = 300 ∧ 30000 = 30000) := by decide

theorem witness_AllocateMakesAWhiteStore_narrow :
    let s := { State.reset with product := 1 }
    s.fsValid = false ∧ (s.product = 1 ∧ 122 = 122 ∧ 250 = 250 ∧ 7625 = 7625) := by decide

theorem witness_AllocateMakesAWhiteStore_others :
    (let s := { State.reset with product := 3 }; s.fsValid = false ∧ (s.product = 2 ∨ s.product = 3)) ∧
    small.fsValid = true ∧ (State.reset.fsValid = false ∧ State.reset.product = 0 ∧ 29999 < 30000) := by decide

theorem witness_FsAttachTakesTheBuffer : State.reset.fsValid = false ∧ small.fsValid = true := by decide

theorem witness_TeardownReleases : small.fsValid = true ∧ State.reset.fsValid = false := by decide

theorem witness_SetPixelChecksInOrder_range :
    small.fsValid = true ∧ small.fsWidth.toNat ≤ (8 : Half).toNat ∧ small.fsHeight.toNat ≤ (1 : Half).toNat := by decide

theorem witness_SetPixelChecksInOrder_colour :
    let s := { small with colorcap := 0x7 }
    s.fsValid = true ∧ (7 : Half).toNat < s.fsWidth.toNat ∧ (0 : Half).toNat < s.fsHeight.toNat ∧
    s.colorcap.getLsbD 3 = false := by decide

theorem witness_SetPixelChecksInOrder_length :
    let s := { small with fsBytelen := 1 }
    s.fsValid = true ∧ (4 : Half).toNat < s.fsWidth.toNat ∧ (0 : Half).toNat < s.fsHeight.toNat ∧
    s.colorcap.getLsbD 2 = true ∧
    s.fsBytelen.toNat ≤ ((0 : Half).toNat * s.fsWidth.toNat + (4 : Half).toNat) * 2 / 8 := by decide

theorem witness_SetPixelReplacesOneField :
    (((0 : Half).toNat * small.fsWidth.toNat + (7 : Half).toNat) * 2 / 8 = 1) ∧
    (((0 : Half).toNat * small.fsWidth.toNat + (7 : Half).toNat) * 2 % 8 = 6) ∧
    small.fsValid = true ∧ (7 : Half).toNat < small.fsWidth.toNat ∧ (0 : Half).toNat < small.fsHeight.toNat ∧
    small.colorcap.getLsbD 3 = true ∧ 1 < small.fsBytelen.toNat := by decide

/-- `small` after its last pixel was set to red. -/
def redLast : State := { small with buf := ⟨[(0, 0), (1, 0x80)], 0⟩ }.finish 0 0

theorem witness_SetPixelReadsBack :
    exec (.setPixel 7 0 .red) small = .next redLast ∧ redLast.result = 0 ∧
    6 < small.fsWidth.toNat ∧ ((6, 0) : Nat × Nat) ≠ ((7 : Half).toNat, (0 : Half).toNat) :=
  ⟨rfl, rfl, by decide, by decide⟩

theorem witness_SetPixelReadsBack_decoding :
    small.colorcap.getLsbD 3 = true ∧
    (let s := { small with colorcap := 0x7 }
     s.colorcap.getLsbD 3 = false ∧ s.colorcap.getLsbD 2 = true ∧
     (s.colorcap.getLsbD 2 = false ∨ s.colorcap.getLsbD 3 = false)) := by decide

theorem witness_SetPixelIsIdempotent :
    let u := { small with buf := ⟨[(0, 0), (1, 0x40)], 0⟩ }.finish 0 0
    exec (.setPixel 7 0 .red) small = .next redLast ∧ redLast.result = 0 ∧
    exec (.setPixel 7 0 .black) redLast = .next u ∧ exec (.setPixel 7 0 .red) u = .next redLast :=
  ⟨rfl, rfl, rfl, rfl⟩

theorem witness_PixelFieldsFitAndDiffer :
    121 < 122 ∧ 249 < 250 ∧ byteOf 122 121 249 = byteOf 122 121 249 ∧ offOf 122 121 249 = offOf 122 121 249 := by
  decide

theorem witness_PairKeepsTenBits : 1023 < 1024 ∧ pair 1023 = pair 1023 ∧ 4 ≤ 4 ∧ 4 ≤ 1023 := by decide

/-- A 9 by 1 store: column 8 is stored and never sent. -/
def nine : State := store 9 1 3 [(0, 0), (1, 0), (2, 0)]

theorem witness_LastColumnsAreNeverSent :
    exec (.setPixel 8 0 .black) nine = .next ({ nine with buf := ⟨[(0, 0), (1, 0), (2, 1)], 0⟩ }.finish 0 0) ∧
    8 * (nine.fsWidth.toNat / 8) ≤ (8 : Half).toNat := ⟨rfl, by decide⟩

theorem witness_RowsHoldThePixelBits : 0 < small.fsWidth.toNat / 8 ∧ 7 < 8 := by decide

theorem witness_FixedPanelCommandsSend : (answering small (oks 4 [])).answers = oks 4 [] := rfl

theorem witness_CommandOnlySends : (answering small (oks 2 [])).answers = oks 2 [] := rfl

theorem witness_DimensionSends_least :
    let s := answering small (oks 4 [])
    s.answers = oks 4 [] ∧ 8 ≤ s.fsWidth.toNat ∧ 1 ≤ s.fsHeight.toNat := by decide

theorem witness_SendsWithoutAMeaningAreRefused :
    (store 7 1 2 []).fsWidth.toNat < 8 ∧ (store 8 0 0 []).fsHeight.toNat = 0 := by decide

theorem witness_SourceOverrideCondition_yellow :
    let s := answering small (oks 4 [])
    s.answers = oks 4 [] ∧ s.colorcap.getLsbD 3 = true := by decide

theorem witness_SourceOverrideCondition_red :
    let s := answering { small with colorcap := 0x4 } (oks 4 [])
    s.answers = oks 4 [] ∧ s.colorcap.getLsbD 3 = false ∧ s.colorcap.getLsbD 2 = true ∧ s.product = 0 := by decide

theorem witness_SourceOverrideCondition_none :
    (let s := answering { small with colorcap := 0x3 } (oks 4 [])
     s.answers = oks 4 [] ∧ s.colorcap.getLsbD 3 = false ∧ (s.colorcap.getLsbD 2 = false ∨ s.product ≠ 0)) ∧
    (let s := answering { small with colorcap := 0x7, product := 1 } (oks 4 [])
     s.answers = oks 4 [] ∧ s.colorcap.getLsbD 3 = false ∧ (s.colorcap.getLsbD 2 = false ∨ s.product ≠ 0)) := by decide

theorem witness_LutPriority :
    (let s := answering small (oks 4 [])
     s.answers = oks 4 [] ∧ s.colorcap.getLsbD 3 = true) ∧
    (let s := answering { small with colorcap := 0x7 } (oks 4 [])
     s.answers = oks 4 [] ∧ s.colorcap.getLsbD 3 = false ∧ s.colorcap.getLsbD 2 = true) ∧
    (let s := answering { small with colorcap := 0x3 } (oks 4 [])
     s.answers = oks 4 [] ∧ s.colorcap.getLsbD 3 = false ∧ s.colorcap.getLsbD 2 = false) := by decide

theorem witness_RowWrites_sent :
    let s := answering p1 (oks 4 [])
    s.answers = oks 4 [] ∧ 8 ≤ s.fsWidth.toNat ∧ ∃ b ∈ s.colorRow s.seq.row.toNat, b ≠ 0 := by decide

theorem witness_RowWrites_not_sent :
    let s := answering small (oks 4 [])
    s.answers = oks 4 [] ∧ ∀ b ∈ s.colorRow s.seq.row.toNat, b = 0 := by decide

theorem witness_DeepSleepPutsThePanelToSleep : (answering small (oks 4 [])).answers = oks 4 [] := rfl

theorem witness_SendsFailFast :
    let s := answering (inPhase small .reset 0 4) (oks 1 [15])
    (PanelCmd.swReset = .ramXRange ∨ PanelCmd.swReset = .writeBw → 8 ≤ s.fsWidth.toNat) ∧
    (PanelCmd.swReset = .ramYRange → 1 ≤ s.fsHeight.toNat) ∧
    PanelCmd.calls .swReset s = [.gpioWrite .dc .low] ++ .busWrite [panel.cmdSwReset] :: [] ∧ (15 : Code) ≠ 0 ∧
    s.answers = oks 1 (15 :: []) := ⟨by decide, by decide, rfl, by decide, rfl⟩

theorem witness_SendsWaitForAnswers :
    (PanelCmd.ramXRange = .ramXRange ∨ PanelCmd.ramXRange = .writeBw → 8 ≤ small.fsWidth.toNat) ∧
    (PanelCmd.ramXRange = .ramYRange → 1 ≤ small.fsHeight.toNat) ∧
    PanelCmd.calls .ramXRange small = [] ++ .gpioWrite .dc .low ::
      [.busWrite [panel.cmdRamXRange], .gpioWrite .dc .high, .busWrite [0, 0]] ∧
    small.answers = oks 0 [] := ⟨by decide, by decide, rfl, rfl⟩

theorem witness_UpdatePreconditions :
    State.reset.fsValid = false ∧
    (let s := { small with fsBytelen := 1 }
     s.fsValid = true ∧ s.fsBytelen.toNat < (s.fsWidth.toNat * s.fsHeight.toNat * 2 + 7) / 8) := by decide

theorem witness_UpdateOutsideTheDimensionsIsRefused :
    (let s := store 7 1 2 []
     s.fsValid = true ∧ (s.fsWidth.toNat * s.fsHeight.toNat * 2 + 7) / 8 ≤ s.fsBytelen.toNat ∧ s.fsWidth.toNat < 8) ∧
    (let s := store 2056 1 514 []
     s.fsValid = true ∧ (s.fsWidth.toNat * s.fsHeight.toNat * 2 + 7) / 8 ≤ s.fsBytelen.toNat ∧
     2055 < s.fsWidth.toNat) ∧
    (let s := store 8 0 0 []
     s.fsValid = true ∧ (s.fsWidth.toNat * s.fsHeight.toNat * 2 + 7) / 8 ≤ s.fsBytelen.toNat ∧
     s.fsHeight.toNat = 0) := by decide

/-- The smallest and the widest admitted image. -/
theorem witness_updatable : updatable small ∧ updatable (store 2055 1 514 []) :=
  ⟨⟨by decide, by decide, by decide, by decide, by decide⟩, ⟨by decide, by decide, by decide, by decide, by decide⟩⟩

theorem witness_UpdateRunsTheWholeScript :
    let s := answering small (oks 91 [7])
    updatable s ∧ s.frametype = 0 ∧ s.answers = oks (updateScript s).length [7] :=
  ⟨witness_updatable.1, rfl, rfl⟩

/-- The first call of an update, which is the earliest that can fail, and the last, behind all the others. -/
theorem witness_UpdateStopsAtTheFirstFailure_first :
    let s := answering small (oks 0 [2])
    updatable s ∧ possibleCalls s = [] ++ .gpioWrite .reset .low :: (updateScript s).tail ∧ (2 : Code) ≠ 0 ∧
    s.answers = oks 0 (2 :: []) :=
  ⟨witness_updatable.1, rfl, by decide, rfl⟩

/-- With another frame type the last call that can fail is the last of the register sends. -/
theorem witness_UpdateStopsAtTheFirstFailure_other_frame_type :
    let s := answering { small with frametype := 3, colorcap := 0x3 } (oks 50 [9])
    let done := (resetScript ++ registerScript s).dropLast
    updatable s ∧ possibleCalls s = done ++ .busWrite panel.argBorder2.toList :: [] ∧ (9 : Code) ≠ 0 ∧
    s.answers = oks done.length (9 :: []) :=
  ⟨witness_updatable.1, rfl, by decide, rfl⟩

theorem witness_UpdateStopsAtTheFirstFailure_last :
    let s := answering small (oks 90 [9])
    let done := resetScript ++ initScript s ++ windowScript s ++ rowsScript s ++
      wp panel.cmdUpdateSeq [panel.argUpdateSeq] ++ w0 panel.cmdTrigger ++
      [.delay panel.tTriggerUs, .gpioPollUntil .busy panel.tBusyTimeout] ++
      [.gpioWrite .dc .low, .busWrite [panel.cmdDeepSleep], .gpioWrite .dc .high]
    updatable s ∧ possibleCalls s = done ++ .busWrite [panel.argDeepSleep] :: [] ∧ (9 : Code) ≠ 0 ∧
    s.answers = oks done.length (9 :: []) :=
  ⟨witness_updatable.1, rfl, by decide, rfl⟩

theorem witness_FirstPollFailureStopsTheBus :
    let s := answering small (oks 6 [2])
    updatable s ∧ (2 : Code) ≠ 0 ∧ s.answers = oks 6 (2 :: []) := ⟨witness_updatable.1, by decide, rfl⟩

theorem witness_OtherFrameTypesAbort :
    let s := answering { small with frametype := 3 } (oks 55 [])
    updatable s ∧ s.frametype ≠ 0 ∧ s.answers = oks (resetScript ++ registerScript s).length [] :=
  ⟨witness_updatable.1, by decide, rfl⟩

theorem witness_UpdateSize_override :
    let s := answering small (oks 91 [])
    (s.colorcap.getLsbD 3 = true ∨ s.colorcap.getLsbD 2 = true ∧ s.product = 0) ∧ updatable s ∧ s.frametype = 0 ∧
    s.answers = oks (75 + 4 * 1 + 12 * s.fsHeight.toNat + 12 * coloredRows s) [] :=
  ⟨by decide, witness_updatable.1, rfl, rfl⟩

-- V105: two coloured rows, no override
theorem witness_UpdateSize_colour :
    let s := answering p1 (oks 123 [])
    (s.colorcap.getLsbD 3 = false ∧ (s.colorcap.getLsbD 2 = false ∨ s.product ≠ 0)) ∧ updatable s ∧ s.frametype = 0 ∧
    s.answers = oks (75 + 4 * 0 + 12 * s.fsHeight.toNat + 12 * coloredRows s) [] :=
  ⟨by decide, ⟨by decide, by decide, by decide, by decide, by decide⟩, rfl, rfl⟩

theorem witness_UpdateNeverWritesTheStore :
    exec .update (answering small [2]) =
      .next (afterRun (latched (answering small [2]) 6) [.gpioWrite .reset .low] [] .indeterminate 2) := rfl

theorem witness_UpdateByModeRunsOnlyTheFullMode :
    FrameType.diff ≠ .alwaysFull ∧
    exec .update State.reset = .next (ended (latched State.reset 6) 6 0) ∧
    exec .update (store 8 0 0 []) = .refused .dimensionsNotAdmitted ∧
    (let s := answering small (oks 91 [])
     updatable s ∧ s.frametype = 0 ∧ s.answers = oks (updateScript s).length []) :=
  ⟨by decide, rfl, rfl, witness_updatable.1, rfl, rfl⟩

/-- The whole update; one that stops at its first call; and one outside the admitted dimensions. -/
theorem witness_ClearWhitensAndUpdates :
    (let s := answering small (oks 91 [])
     s.fsValid = true ∧ s.colorcap.getLsbD 0 = true ∧
     (s.fsWidth.toNat * s.fsHeight.toNat * 2 + 7) / 8 ≤ s.fsBytelen.toNat ∧ updatable s ∧ s.frametype = 0 ∧
     s.answers = oks (7 + (initScript s).length + 8 + 12 * s.fsHeight.toNat + 12) []) ∧
    (∃ t, exec .update (answering small [2]) = .next t) ∧
    (let s := store 3 1 1 [(0, 0xC0)]
     s.fsValid = true ∧ s.colorcap.getLsbD 0 = true ∧
     (s.fsWidth.toNat * s.fsHeight.toNat * 2 + 7) / 8 ≤ s.fsBytelen.toNat ∧
     s.fsWidth.toNat * s.fsHeight.toNat * 2 ≤ 8 * 0 + 6 ∧ exec .update s = .refused .dimensionsNotAdmitted) :=
  ⟨⟨rfl, rfl, by decide, witness_updatable.1, rfl, rfl⟩, ⟨_, rfl⟩, rfl, rfl, by decide, by decide, rfl⟩

theorem witness_ClearChecks :
    State.reset.fsValid = false ∧
    (let s := { store 1 1 1 [] with colorcap := 0xE }
     s.fsValid = true ∧ 1 ≤ s.fsWidth.toNat ∧ 1 ≤ s.fsHeight.toNat ∧ s.colorcap.getLsbD 0 = false) := by decide

theorem witness_ClearStopsAtAShortBuffer :
    let s := { small with fsBytelen := 1 }
    s.fsValid = true ∧ s.colorcap.getLsbD 0 = true ∧
    s.fsBytelen.toNat < (s.fsWidth.toNat * s.fsHeight.toNat * 2 + 7) / 8 ∧
    3 < s.fsWidth.toNat ∧ 0 < s.fsHeight.toNat ∧ (0 * s.fsWidth.toNat + 3) * 2 / 8 < s.fsBytelen.toNat := by decide

theorem witness_SetupCreatesTheSession_present :
    let s := answering small (oks 12 [])
    s.answers = oks 12 [] ∧ s.fsValid = true := by decide

theorem witness_SetupCreatesTheSession_created :
    (let s := answering State.reset (oks 12 [])
     s.answers = oks 12 [] ∧ s.fsValid = false ∧ s.product = 0) ∧
    (let s := answering { State.reset with product := 1 } (oks 12 [])
     s.answers = oks 12 [] ∧ s.fsValid = false ∧ s.product = 1) := by decide

theorem witness_SetupWithoutProfileFails :
    (let s := answering { State.reset with product := 2 } (oks 5 [])
     s.fsValid = false ∧ (s.product = 2 ∨ s.product = 3) ∧ s.answers = oks 5 []) ∧
    (let s := answering { State.reset with product := 3 } (oks 5 [])
     s.fsValid = false ∧ (s.product = 2 ∨ s.product = 3) ∧ s.answers = oks 5 []) := by decide

/-- The last call before ALLOCATE, with a custom product too, and the first after it, with and without a Frame Store. -/
theorem witness_SetupStopsAtTheFirstFailure :
    (9 : Code) ≠ 0 ∧
    setupScript ++ resetScript = setupScript.take 4 ++ .busInit :: resetScript ∧
    (answering { State.reset with product := 2 } (oks 4 [9])).answers = oks (setupScript.take 4).length (9 :: []) ∧
    (setupScript.take 4).length < 5 ∧
    setupScript ++ resetScript = setupScript ++ .gpioWrite .reset .low :: resetScript.tail ∧
    (answering small (oks 5 [9])).answers = oks setupScript.length (9 :: []) ∧ small.fsValid = true ∧
    (answering State.reset (oks 5 [9])).answers = oks setupScript.length (9 :: []) ∧ 5 ≤ setupScript.length ∧
    State.reset.fsValid = false ∧ State.reset.product = 0 ∧
    { State.reset with product := 1 }.product = 1 :=
  ⟨by decide, rfl, rfl, by decide, rfl, rfl, rfl, rfl, by decide, rfl, rfl, rfl⟩

/-- Every clause of the invariant holds in a state inside an update, which the next step leaves for another. -/
theorem witness_StepKeepsTheInvariant :
    Invariant (inPhase { small with pstate := .awake } .rows 0 0) ∧
    ∃ t, step (inPhase { small with pstate := .awake } .rows 0 0) = .next t :=
  ⟨⟨by decide, by decide, by decide, by decide⟩, ⟨_, rfl⟩⟩

/-- A zero fill and a pixel loop meet it too; behind the second the update is refused. -/
theorem witness_NoFaultUnderTheInvariant_local :
    Invariant { inPhase State.reset .localFill 0 0 with latch := ⟨3, 0, 0, 0⟩ } ∧
    (let s := { inPhase (store 3 1 1 []) .localPixels 0 0 with latch := ⟨8, 0, 0, 0⟩ }
     Invariant s ∧ step s = .refused .dimensionsNotAdmitted) :=
  ⟨⟨by decide, by decide, by decide, by decide⟩, ⟨by decide, by decide, by decide, by decide⟩, rfl⟩

theorem witness_NoFaultUnderTheInvariant :
    Invariant State.reset ∧ (inPhase { small with pstate := .awake } .rows 0 0).seq.phase ≠ .idle :=
  ⟨⟨by decide, by decide, by decide, by decide⟩, by decide⟩

/-- The last row with its last answer: the step enters the Trigger phase. -/
theorem witness_PhasesAreStrictlySequential :
    let s := { inPhase (answering small [0]) .rows 0 11 with waiting := true }
    s.seq.phase ≠ .idle ∧ step s = .next { s with answers := [], waiting := false, seq := ⟨.trigger, 0, 0⟩ } :=
  ⟨by decide, rfl⟩

theorem witness_TraceOnlyGrows :
    let s := inPhase (answering small [0]) .reset 0 0
    step s =
      .next { s with answers := [], trace := [⟨.gpioWrite .reset .low, 0⟩], seq := ⟨.reset, 0, 1⟩ } := rfl

theorem witness_OperationsEndOrWait :
    Instr.update.panelCmd? = none ∧
    exec .update (answering small [2]) =
      .next (afterRun (latched (answering small [2]) 6) [.gpioWrite .reset .low] [] .indeterminate 2) := ⟨rfl, rfl⟩

end Sys2Proof.Tests
end

section
/-! PROOFS. What one core step can do to the trace and the answers, said once, and the statements about the step that
rest on it (10_state R20, R24). -/

namespace Sys2Proof.Machine

open Sys2Proof.Claims

/-! ### Finding an entry, from the answer -/

/-- What `findItem` answers, it found: the entry stands in the list behind the calls that come before it. -/
theorem findItem_split {s : State} {its : List Item} {k j : Nat} {it : Item} (h : findItem s its k = some (it, j)) :
    ∃ pre post, its = pre ++ it :: post ∧ j < (it.calls s).length ∧
      k = (pre.flatMap fun i => i.calls s).length + j := by
  induction its generalizing k with
  | nil => cases h
  | cons p its ih =>
    unfold findItem at h
    split at h
    · cases h
      exact ⟨[], its, rfl, ‹_›, by simp⟩
    · obtain ⟨pre, post, hits, hj, hk⟩ := ih h
      refine ⟨p :: pre, post, by simp [hits], hj, ?_⟩
      rw [List.flatMap_cons, List.length_append]
      omega

theorem findItem_mem {s : State} {its : List Item} {k j : Nat} {it : Item} (h : findItem s its k = some (it, j)) :
    it ∈ its := by
  obtain ⟨pre, post, rfl, _, _⟩ := findItem_split h
  simp

/-- Call `j` of an entry is found at the number of calls before the entry, plus `j`. -/
theorem findItem_inside (s : State) (pre : List Item) (it : Item) (post : List Item) {j : Nat}
    (hj : j < (it.calls s).length) :
    findItem s (pre ++ it :: post) ((pre.flatMap fun i => i.calls s).length + j) = some (it, j) := by
  induction pre with
  | nil => simp [findItem, hj]
  | cons p pre ih =>
    simp only [List.cons_append, List.flatMap_cons, List.length_append, findItem]
    rw [if_neg (by omega), Nat.add_assoc, Nat.add_sub_cancel_left]
    exact ih

/-! ### No call and no answer -/

/-- From `s` to `t` no capability call was made and no answer taken. -/
def MadeNoCall (s t : State) : Prop := t.trace = s.trace ∧ t.answers = s.answers

/-- The end of a phase or row is no call. -/
theorem phaseEnd_madeNoCall (s : State) : MadeNoCall s (phaseEnd s) := by
  unfold phaseEnd
  cases s.seq.phase
  case localPins | reset | rows => dsimp only; split <;> exact ⟨rfl, rfl⟩
  all_goals exact ⟨rfl, rfl⟩

theorem settle_madeNoCall (s : State) : MadeNoCall s (settle s) := by
  unfold settle
  split
  · exact ⟨rfl, rfl⟩
  · exact phaseEnd_madeNoCall s

@[simp] theorem settle_trace (s : State) : (settle s).trace = s.trace := (settle_madeNoCall s).1

@[simp] theorem settle_answers (s : State) : (settle s).answers = s.answers := (settle_madeNoCall s).2

/-- What the preconditions of UPDATE lead to (44_panel_sequencer R231, R232): a code, the refusal, or, with all of them
met, the Reset phase. -/
theorem checkUpdate_cases (s : State) :
    (∃ code, checkUpdate s = .next (s.finish code 0)) ∨ checkUpdate s = .refused .dimensionsNotAdmitted ∨
    (s.ready = true ∧ checkUpdate s = .next s.enterReset) := by
  unfold checkUpdate
  split
  · exact .inl ⟨_, rfl⟩
  · split
    · exact .inl ⟨_, rfl⟩
    · split
      · exact .inr (.inl rfl)
      · rename_i hvalid hbytes hdim
        have hready : s.ready = true := by
          simp only [State.ready, Bool.and_eq_true, decide_eq_true_eq]
          exact ⟨⟨by simpa using hvalid, by omega⟩, by simpa using hdim⟩
        exact .inr (.inr ⟨hready, rfl⟩)

/-! ### Local steps -/

/-- An outcome of `s` that is the next state, without a call, or the refusal of an update (44_panel_sequencer R232). -/
def LocalOutcome (s : State) (o : Outcome) : Prop :=
  o = .refused .dimensionsNotAdmitted ∨ ∃ t, o = .next t ∧ MadeNoCall s t

theorem LocalOutcome.next {s t : State} (h : MadeNoCall s t) : LocalOutcome s (.next t) := .inr ⟨t, rfl, h⟩

theorem LocalOutcome.noFault {s : State} {o : Outcome} (h : LocalOutcome s o) : NoFault o := by
  obtain rfl | ⟨t, rfl, _⟩ := h <;> trivial

theorem LocalOutcome.madeNoCall {s t : State} {o : Outcome} (h : LocalOutcome s o) (ht : o = .next t) :
    MadeNoCall s t := by
  subst ht
  obtain h | ⟨_, ⟨⟩, ht⟩ := h
  · cases h
  · exact ht

theorem LocalOutcome.of_madeNoCall {s t : State} {o : Outcome} (h : LocalOutcome t o) (hs : MadeNoCall s t) :
    LocalOutcome s o := by
  obtain rfl | ⟨u, rfl, htrace, hanswers⟩ := h
  · exact .inl rfl
  · exact .next ⟨htrace.trans hs.1, hanswers.trans hs.2⟩

theorem checkUpdate_local (s : State) : LocalOutcome s (checkUpdate s) := by
  obtain ⟨_, h⟩ | h | ⟨_, h⟩ := checkUpdate_cases s <;> rw [h]
  · exact .next ⟨rfl, rfl⟩
  · exact .inl rfl
  · exact .next ⟨rfl, rfl⟩

/-- The first core step of an operation of more than one makes no call. -/
theorem firstStep?_local {i : Instr} {s : State} {o : Outcome} (h : firstStep? i s = some o) : LocalOutcome s o := by
  cases i <;> cases h
  case setup => exact .next ⟨rfl, rfl⟩
  case allocate =>
    unfold startAllocate startAllocateIn
    split <;> exact .next ⟨rfl, rfl⟩
  case update => exact (checkUpdate_local _).of_madeNoCall ⟨rfl, rfl⟩
  case updateByMode mode =>
    unfold startUpdateByMode
    split
    · exact (checkUpdate_local _).of_madeNoCall ⟨rfl, rfl⟩
    · exact .next ⟨rfl, rfl⟩
  case clear =>
    unfold startClear
    split <;> exact .next ⟨rfl, rfl⟩

theorem setCsr_madeNoCall (s : State) (reg : RegAddr) (v : DataWord) : MadeNoCall s (s.setCsr reg v) := by
  unfold State.setCsr
  constructor <;> simp only [apply_ite State.trace, apply_ite State.answers, ite_self]

theorem release_madeNoCall (s : State) : MadeNoCall s (release s) := by
  unfold release
  split <;> exact ⟨rfl, rfl⟩

/-- A host operation of one internal state change makes no call, and is never refused. -/
theorem exec_local {i : Instr} {s : State} (hhost : i.panelCmd? = none) (hshort : firstStep? i s = none) :
    LocalOutcome s (exec i s) := by
  cases i <;> cases hhost <;> cases hshort
  case teardown => exact .next (release_madeNoCall s)
  case fsAttach =>
    show LocalOutcome s (execFsAttach s)
    unfold execFsAttach
    split
    · exact .next ⟨rfl, rfl⟩
    · split <;> exact .next ⟨rfl, rfl⟩
  case setPixel x y c =>
    show LocalOutcome s (execSetPixel x y c s)
    have hpixel : MadeNoCall s (setPixel x.toNat y.toNat c s).2 := by
      obtain ⟨h, _⟩ | ⟨_, _, _, _, _, h⟩ := setPixel_cases x.toNat y.toNat c s <;> rw [h] <;> exact ⟨rfl, rfl⟩
    exact .next hpixel
  case csrRead reg =>
    show LocalOutcome s (execCsrRead reg s)
    unfold execCsrRead
    split <;> exact .next ⟨rfl, rfl⟩
  case csrWrite reg v =>
    show LocalOutcome s (execCsrWrite reg v s)
    unfold execCsrWrite
    split
    · exact .next ⟨rfl, rfl⟩
    · split
      · exact .next ⟨rfl, rfl⟩
      · split
        · exact .next ⟨rfl, rfl⟩
        · exact .next (setCsr_madeNoCall s reg v)
  case fsRd a =>
    show LocalOutcome s (execFsRd a s)
    unfold execFsRd
    split <;> exact .next ⟨rfl, rfl⟩
  case fsWr a b =>
    show LocalOutcome s (execFsWr a b s)
    unfold execFsWr
    split
    · exact .next ⟨rfl, rfl⟩
    · split <;> exact .next ⟨rfl, rfl⟩
  case reserved0 | reservedD | reservedE | reservedF => exact .next ⟨rfl, rfl⟩

/-- No request word asks for a panel command (30_encoding R92). -/
theorem decodeRequest_panelCmd? (w : RequestWord) : (decodeRequest w).panelCmd? = none := by
  simp only [decodeRequest, apply_ite Instr.panelCmd?]
  simp only [Instr.panelCmd?, ite_self]

/-- The acceptance of a request makes no call (45_session_and_host_port R270). -/
theorem step_idle_local {s : State} (h : s.seq.phase = .idle) : LocalOutcome s (step s) := by
  unfold step
  rw [if_pos h]
  split
  · exact .next ⟨rfl, rfl⟩
  · rename_i w rest _
    unfold startRequest
    split
    · rename_i hfirst
      exact (firstStep?_local hfirst).of_madeNoCall ⟨rfl, rfl⟩
    · rename_i hshort
      exact (exec_local (decodeRequest_panelCmd? w) hshort).of_madeNoCall ⟨rfl, rfl⟩

/-- The zero fill, where there is a profile to fill for, is local work (41_frame_store R151). -/
theorem fillStep_local {s : State} (h : (profile s.product).isSome = true) :
    ∃ t, fillStep s = .next t ∧ MadeNoCall s t := by
  obtain ⟨⟨w, ht⟩, hp⟩ := Option.isSome_iff_exists.mp h
  unfold fillStep
  rw [hp]
  simp only
  split <;> exact ⟨_, rfl, rfl, rfl⟩

theorem fillStep_profile {s t : State} (h : fillStep s = .next t) : (profile s.product).isSome = true := by
  unfold fillStep at h
  split at h
  · cases h
  · simp [*]

/-- The pixel loop and the preconditions of UPDATE behind it are local work (44_panel_sequencer R260). -/
theorem pixelStep_local (s : State) : LocalOutcome s (pixelStep s) := by
  have hloop := setPixels_frame .white (pixelList s.fsWidth.toNat s.fsHeight.toNat) s
  unfold pixelStep
  split
  rename_i code t heq
  rw [heq] at hloop
  have ht : MadeNoCall s t := by
    rw [show t = _ from hloop]
    exact ⟨rfl, rfl⟩
  split
  · exact (checkUpdate_local t).of_madeNoCall ht
  · exact .next ht

/-! ### The step at a call -/

theorem sequencerStep_fill {s : State} (hw : s.waiting = false) (h : s.seq.phase = .localFill) :
    sequencerStep s = fillStep s := by
  simp [sequencerStep, hw, h]

theorem sequencerStep_pixels {s : State} (hw : s.waiting = false) (h : s.seq.phase = .localPixels) :
    sequencerStep s = pixelStep s := by
  simp [sequencerStep, hw, h]

/-- The local work of ALLOCATE and CLEAR makes no call (41_frame_store R151, 44_panel_sequencer R260). -/
theorem sequencerStep_local {s t : State} (hphase : s.seq.phase = .localFill ∨ s.seq.phase = .localPixels)
    (hw : s.waiting = false) (h : sequencerStep s = .next t) : MadeNoCall s t := by
  obtain hfill | hpixels := hphase
  · rw [sequencerStep_fill hw hfill] at h
    obtain ⟨u, hu, hquiet⟩ := fillStep_local (fillStep_profile h)
    rw [hu] at h
    cases h
    exact hquiet
  · rw [sequencerStep_pixels hw hpixels] at h
    exact (pixelStep_local s).madeNoCall h

theorem sequencerStep_callStep {s : State} (hw : s.waiting = false) (hfill : s.seq.phase ≠ .localFill)
    (hpixels : s.seq.phase ≠ .localPixels) : sequencerStep s = callStep s := by
  unfold sequencerStep
  rw [if_neg (by simp [hw])]
  split
  · exact absurd ‹_› hfill
  · exact absurd ‹_› hpixels
  all_goals rfl

theorem sequencerStep_waiting {s : State} (hw : s.waiting = true) : sequencerStep s = .next (resumeCall s) :=
  if_pos hw

theorem frameTypeFails_iff (c : PanelCmd) (s : State) : frameTypeFails c s = true ↔ c = .setLut ∧ s.frametype ≠ 0 := by
  simp [frameTypeFails]

theorem frameTypeFails_eq_false {c : PanelCmd} {s : State} (h : c = .setLut → s.frametype = 0) :
    frameTypeFails c s = false := by
  rw [Bool.eq_false_iff, Ne, frameTypeFails_iff]
  exact fun ⟨hc, hne⟩ => hne (h hc)

/-- What can stand in front of a call: nothing, the frame-type check (44_panel_sequencer R244; entry 15), or the refusal
of a send (entries 12 and 13). -/
theorem obstacle?_cases (s : State) :
    obstacle? s = none ∨
    (findItem s (phaseItems s) s.seq.k = some (.send .setLut, 0) ∧ s.frametype ≠ 0 ∧
      obstacle? s = some (.next (s.abort Code.notAvailable))) ∨
    (∃ c r, findItem s (phaseItems s) s.seq.k = some (.send c, 0) ∧ PanelCmd.refusal? c s = some r ∧
      obstacle? s = some (.refused r)) := by
  unfold obstacle?
  split
  · rename_i c hc
    split
    · rename_i hframe
      obtain ⟨rfl, hne⟩ := (frameTypeFails_iff c s).mp hframe
      exact .inr (.inl ⟨hc, hne, rfl⟩)
    · cases hr : PanelCmd.refusal? c s with
      | none => exact .inl rfl
      | some r => exact .inr (.inr ⟨c, r, hc, hr, rfl⟩)
  all_goals exact .inl rfl

/-- What a step at a call can do: the call that the position names, the abort of the frame-type check, the refusal of a
send, or, where the position names no call, the fault. -/
theorem callStep_cases (s : State) :
    (∃ c, (phaseCalls s)[s.seq.k]? = some c ∧ callStep s = .next (settle (cap c s).state)) ∨
    callStep s = .next (s.abort Code.notAvailable) ∨
    (∃ c r, findItem s (phaseItems s) s.seq.k = some (.send c, 0) ∧ PanelCmd.refusal? c s = some r ∧
      callStep s = .refused r) ∨
    ((phaseCalls s)[s.seq.k]? = none ∧ callStep s = .fault .noCallAtPosition) := by
  unfold callStep
  obtain h | ⟨_, _, h⟩ | ⟨c, r, hc, hr, h⟩ := obstacle?_cases s <;> rw [h]
  · cases hcall : (phaseCalls s)[s.seq.k]? with
    | none => exact .inr (.inr (.inr ⟨rfl, rfl⟩))
    | some c => exact .inl ⟨c, rfl, rfl⟩
  · exact .inr (.inl rfl)
  · exact .inr (.inr (.inl ⟨c, r, hc, hr, rfl⟩))

/-- An answer is no call, and takes no other answer. -/
theorem answered_madeNoCall (s : State) (a : Code) : MadeNoCall s (State.answered s a).state := by
  unfold State.answered
  split <;> exact ⟨rfl, rfl⟩

/-- A call enters the trace with the value of CTX (10_state R32). -/
theorem cap_trace (c : Call) (s : State) : (cap c s).state.trace = s.trace ++ [⟨c, s.ctx⟩] := by
  unfold cap
  split
  · rfl
  · exact (answered_madeNoCall _ _).1

/-- A call takes the next answer, if one is at hand. -/
theorem cap_answers (c : Call) (s : State) : (cap c s).state.answers = s.answers.tail := by
  unfold cap
  split
  · simp [Progress.state, *]
  · rw [(answered_madeNoCall _ _).2]
    simp [*]

/-- The answer that was waited for is taken without a new call (60_exceptions R306, R307). -/
theorem resumeCall_trace (s : State) : (resumeCall s).trace = s.trace := by
  unfold resumeCall
  split
  · rfl
  · rw [settle_trace]
    exact (answered_madeNoCall _ _).1

theorem resumeCall_answers (s : State) : (resumeCall s).answers = s.answers.tail := by
  unfold resumeCall
  split
  · simp [*]
  · rw [settle_answers, (answered_madeNoCall _ _).2]
    simp [*]

/-! ### The trace -/

/-- From `s` to `t` at most one call was appended to the trace, with the value of CTX, and at most one answer taken. -/
def OneCallAtMost (s t : State) : Prop :=
  (t.trace = s.trace ∨ ∃ c, t.trace = s.trace ++ [⟨c, s.ctx⟩]) ∧
  (t.answers = s.answers ∨ t.answers = s.answers.tail)

theorem MadeNoCall.oneCallAtMost {s t : State} (h : MadeNoCall s t) : OneCallAtMost s t := ⟨.inl h.1, .inl h.2⟩

theorem callStep_oneCallAtMost {s t : State} (h : callStep s = .next t) : OneCallAtMost s t := by
  obtain ⟨c, _, h'⟩ | h' | ⟨_, _, _, _, h'⟩ | ⟨_, h'⟩ := callStep_cases s <;> rw [h'] at h <;> cases h
  · exact ⟨.inr ⟨c, by rw [settle_trace, cap_trace]⟩, .inr (by rw [settle_answers, cap_answers])⟩
  · exact MadeNoCall.oneCallAtMost ⟨rfl, rfl⟩

theorem sequencerStep_oneCallAtMost {s t : State} (h : sequencerStep s = .next t) : OneCallAtMost s t := by
  cases hw : s.waiting with
  | true =>
    rw [sequencerStep_waiting hw] at h
    cases h
    exact ⟨.inl (resumeCall_trace s), .inr (resumeCall_answers s)⟩
  | false =>
    by_cases hlocal : s.seq.phase = .localFill ∨ s.seq.phase = .localPixels
    · exact (sequencerStep_local hlocal hw h).oneCallAtMost
    · obtain ⟨hfill, hpixels⟩ := not_or.mp hlocal
      rw [sequencerStep_callStep hw hfill hpixels] at h
      exact callStep_oneCallAtMost h

theorem step_oneCallAtMost {s t : State} (h : step s = .next t) : OneCallAtMost s t := by
  by_cases hidle : s.seq.phase = .idle
  · exact ((step_idle_local hidle).madeNoCall h).oneCallAtMost
  · rw [step_busy hidle] at h
    exact sequencerStep_oneCallAtMost h

/-- Settles O58: by what a step of each kind does to the trace and the answers. -/
theorem traceOnlyGrows : Obligations.TraceOnlyGrows := by
  intro s t h
  obtain ⟨htrace, hanswers⟩ := step_oneCallAtMost h
  obtain ⟨calls, hcalls, hlen⟩ :
      ∃ calls : List Call, t.trace = s.trace ++ calls.map (fun c => ⟨c, s.ctx⟩) ∧ calls.length ≤ 1 := by
    obtain h | ⟨c, h⟩ := htrace
    · exact ⟨[], by simp [h], by simp⟩
    · exact ⟨[c], by simp [h], by simp⟩
  obtain ⟨used, hused, hone⟩ : ∃ used : List Code, s.answers = used ++ t.answers ∧ used.length ≤ 1 := by
    obtain h | h := hanswers
    · exact ⟨[], by simp [h], by simp⟩
    · exact ⟨s.answers.take 1, by simp [h, ← List.drop_one], by simp⟩
  exact ⟨calls, used, hcalls, hlen, hused, hone⟩

/-! ### The call that the position names -/

/-- A transmitted row has a byte from a width of 8 on (30_encoding R105). -/
theorem w8_pos_iff (s : State) : 0 < s.w8 ↔ 8 ≤ s.fsWidth.toNat := by
  unfold State.w8
  omega

/-- Nothing stands in front of a call when the frame type is the full one at the LUT and the dimensions leave a payload
to each send that takes one from them (44_panel_sequencer R232, R244). -/
theorem clearAt_of_dimensions {s : State} {k : Nat}
    (h : ∀ d, findItem s (phaseItems s) k = some (.send d, 0) →
      (d = .setLut → s.frametype = 0) ∧ (d = .ramXRange ∨ d = .writeBw → 8 ≤ s.fsWidth.toNat) ∧
      (d = .ramYRange → 1 ≤ s.fsHeight.toNat)) : clearAt s k := by
  intro c hc
  obtain ⟨hlut, hwidth, hheight⟩ := h c hc
  refine ⟨frameTypeFails_eq_false hlut, ?_⟩
  cases c
  case ramXRange => exact (w8_pos_iff s).mpr (hwidth (.inl rfl))
  case writeBw => exact (w8_pos_iff s).mpr (hwidth (.inr rfl))
  case ramYRange => exact hheight rfl
  all_goals trivial

/-- A phase with an entry is neither IDLE nor one of local work. -/
theorem phase_of_phaseItems {s : State} (h : phaseItems s ≠ []) :
    s.seq.phase ≠ .idle ∧ s.seq.phase ≠ .localFill ∧ s.seq.phase ≠ .localPixels := by
  refine ⟨?_, ?_, ?_⟩ <;> intro hp <;> exact h (by simp [phaseItems, hp])

/-- The Panel Init phase is the one that sends the waveform table (44_panel_sequencer R240). -/
theorem phase_of_setLut_mem {s : State} (h : Item.send .setLut ∈ phaseItems s) : s.seq.phase = .init := by
  unfold phaseItems at h
  cases hp : s.seq.phase <;> simp only [hp] at h
  case init => rfl
  case rows => cases hc : s.colorNonzero s.seq.row.toNat <;> simp [hc, rowItems] at h
  all_goals simp [setupItems, resetItems, windowItems, triggerItems, sleepItems] at h

/-- The abort with a code, as the statements write it (60_exceptions R312). -/
theorem abort_eq_ended (s : State) (code : Code) :
    s.abort code = ended { s with pstate := pstateAfterAbort s } code 0 := by
  have hpstate : (if s.seq.phase.panelSide then PState.indeterminate else s.pstate) = pstateAfterAbort s := by
    unfold pstateAfterAbort
    cases s.seq.phase <;> rfl
  unfold State.abort
  rw [hpstate]
  rfl

theorem profile_eq_none_iff (p : BitVec 2) : profile p = none ↔ ¬ (p = 0 ∨ p = 1) := by
  by_cases h0 : p = 0
  · simp [profile, h0]
  · by_cases h1 : p = 1
    · simp [profile, h1]
    · simp only [profile, h0, h1, if_false, or_self, not_false_eq_true]

/-- The end of a phase or row, as the statements write it; it does not depend on `K` (10_state R24). -/
theorem phaseEnd_afterCalls (s : State) (cs : List Call) (rest : List Code) (hidle : s.seq.phase ≠ .idle)
    (hfill : s.seq.phase ≠ .localFill) (hpixels : s.seq.phase ≠ .localPixels) :
    phaseEnd (s.afterCalls cs rest) =
      afterLast { s with trace := s.trace ++ cs.map fun c => ⟨c, s.ctx⟩, answers := rest } := by
  have hphase : (s.afterCalls cs rest).seq.phase = s.seq.phase := rfl
  unfold phaseEnd afterLast
  rw [hphase]
  cases hp : s.seq.phase
  case idle => exact absurd hp hidle
  case localFill => exact absurd hp hfill
  case localPixels => exact absurd hp hpixels
  case localPins =>
    have halloc : allocation (s.afterCalls cs rest) = allocation s := rfl
    dsimp only
    rw [halloc]
    obtain ⟨hv, h⟩ | ⟨hv, hnone, h⟩ | ⟨hv, w, ht, hsome, _, h⟩ := allocation_cases s
    · rw [h, if_pos hv]
      rfl
    · rw [h, if_neg (by simp [hv]), if_neg ((profile_eq_none_iff _).mp hnone)]
      simp [abort_eq_ended, pstateAfterAbort, State.afterCalls, ended, Phase.code, hp, Code.notAvailable]
    · have hproduct : s.product = 0 ∨ s.product = 1 := (profile_cases hsome).imp And.left And.left
      rw [h, if_neg (by simp [hv]), if_pos hproduct]
      rfl
  case rows =>
    dsimp only
    by_cases hrow : s.seq.row.toNat + 1 < s.fsHeight.toNat
    · exact (if_pos hrow).trans (if_pos hrow).symm
    · exact (if_neg hrow).trans (if_neg hrow).symm
  all_goals rfl

/-- A core step at a call that nothing stands in front of, by the answer at hand: none, OK inside the phase or row, OK
at its last call, and any other (10_state R24, 60_exceptions R306, R307, R312). -/
theorem sequencerStep_call_answers {s : State} {c : Call} (hw : s.waiting = false)
    (hc : (phaseCalls s)[s.seq.k]? = some c) (hclear : clearAt s s.seq.k) :
    (s.answers = [] → sequencerStep s = .next { s with trace := s.trace ++ [⟨c, s.ctx⟩], waiting := true }) ∧
    (∀ rest, s.answers = 0 :: rest → s.seq.k + 1 < (phaseCalls s).length →
      sequencerStep s = .next (sent s [c] rest)) ∧
    (∀ rest, s.answers = 0 :: rest → s.seq.k + 1 = (phaseCalls s).length →
      sequencerStep s = .next (afterLast { s with trace := s.trace ++ [⟨c, s.ctx⟩], answers := rest })) ∧
    (∀ (a : Code) (rest : List Code), a ≠ 0 → s.answers = a :: rest →
      sequencerStep s = .next (afterRun s [c] rest (pstateAfterAbort s) a)) := by
  have hstep := sequencerStep_call hw hc hclear
  have hitems : phaseItems s ≠ [] := by
    intro h
    simp [phaseCalls, h] at hc
  obtain ⟨hidle, hfill, hpixels⟩ := phase_of_phaseItems hitems
  refine ⟨fun ha => ?_, fun rest ha hk => ?_, fun rest ha hk => ?_, fun a rest hne ha => ?_⟩
  · rw [hstep, cap_waits c s ha, Progress.state, settle_stopped (.inr rfl)]
    rfl
  · rw [hstep, cap_ok c s rest ha, Progress.state, settle_inside (by rw [phaseCalls_afterCalls]; exact hk)]
    rfl
  · have hend : (phaseCalls (s.afterCalls [c] rest)).length ≤ (s.afterCalls [c] rest).seq.k := by
      rw [phaseCalls_afterCalls]
      exact Nat.le_of_eq hk.symm
    rw [hstep, cap_ok c s rest ha, Progress.state, settle_end (s := s.afterCalls [c] rest) hidle hw hend,
      phaseEnd_afterCalls s [c] rest hidle hfill hpixels]
    rfl
  · rw [hstep, cap_fails c s a rest ha hne, Progress.state, settle_stopped (.inl rfl), abort_eq_ended]
    rfl

/-- The frame-type check ends the update without a call (44_panel_sequencer R244). -/
theorem sequencerStep_frameType {s : State} (hw : s.waiting = false)
    (hlut : findItem s (phaseItems s) s.seq.k = some (.send .setLut, 0)) (hframe : s.frametype ≠ 0) :
    sequencerStep s = .next (afterRun s [] s.answers .indeterminate Code.notAvailable) := by
  have hinit := phase_of_setLut_mem (findItem_mem hlut)
  have hobstacle : obstacle? s = some (.next (s.abort Code.notAvailable)) := by
    unfold obstacle?
    rw [hlut]
    exact if_pos ((frameTypeFails_iff _ s).mpr ⟨rfl, hframe⟩)
  rw [sequencerStep_callStep hw (by simp [hinit]) (by simp [hinit]), callStep, hobstacle]
  simp [abort_eq_ended, pstateAfterAbort, afterRun, ended, Phase.code, hinit]

/-- Settles O60: the step at a call by its answer, the frame-type check, and the local work. -/
theorem stepMakesOneCall : Obligations.StepMakesOneCall := by
  refine ⟨fun s c hbusy hw hc hdims => ?_, fun s hbusy hw hlut hframe => ?_, fun s t hphase hw h => ?_⟩
  · rw [step_busy hbusy]
    exact sequencerStep_call_answers hw hc (clearAt_of_dimensions hdims)
  · rw [step_busy hbusy]
    exact sequencerStep_frameType hw hlut hframe
  · have hbusy : s.seq.phase ≠ .idle := by
      obtain h | h := hphase <;> simp [h]
    rw [step_busy hbusy] at h
    exact sequencerStep_local hphase hw h

/-! ### The invariant -/

/-- Settles O54: nothing is written, there is no Frame Store, and the core is idle. -/
theorem resetMeetsTheInvariant : Obligations.ResetMeetsTheInvariant :=
  ⟨Memory.wf_reset, by decide, by decide, by decide⟩

/-- With the preconditions of UPDATE met every send has a payload (44_panel_sequencer R232). -/
theorem PanelCmd.admitted_of_ready {s : State} (c : PanelCmd) (h : s.ready = true) : PanelCmd.admitted c s := by
  simp only [State.ready, State.dimensionsInRange, Bool.and_eq_true, decide_eq_true_eq] at h
  obtain ⟨_, ⟨hw, _⟩, hh⟩ := h
  cases c
  case ramXRange | writeBw => exact hw
  case ramYRange => exact hh
  all_goals trivial

/-- At a position that the invariant admits every send of the phase has a payload. -/
theorem PanelCmd.admitted_of_positionOk {s : State} {c : PanelCmd} (h : s.positionOk = true)
    (hc : Item.send c ∈ phaseItems s) : PanelCmd.admitted c s := by
  unfold State.positionOk at h
  unfold phaseItems at hc
  cases hp : s.seq.phase <;> simp only [hp, Bool.and_eq_true] at h hc
  case idle | localFill | localPixels => cases hc
  case localPins => simp [setupItems] at hc
  case reset =>
    have : c = .swReset := by simpa [resetItems] using hc
    subst this
    trivial
  all_goals exact admitted_of_ready c h.2

/-- At a position of a call that the invariant admits, the position names one (10_state R24). -/
theorem lt_length_of_positionOk {s : State} (h : s.positionOk = true) (hidle : s.seq.phase ≠ .idle)
    (hfill : s.seq.phase ≠ .localFill) (hpixels : s.seq.phase ≠ .localPixels) : s.seq.k < (phaseCalls s).length := by
  unfold State.positionOk at h
  cases hp : s.seq.phase <;> simp only [hp, Bool.and_eq_true, decide_eq_true_eq] at h
  case idle => exact absurd hp hidle
  case localFill => exact absurd hp hfill
  case localPixels => exact absurd hp hpixels
  all_goals
    obtain ⟨⟨_, hk⟩, _⟩ := h
    exact hk

/-- The invariant admits a zero fill only where there is a profile to fill for (41_frame_store R151). -/
theorem profile_of_positionOk {s : State} (h : s.positionOk = true) (hp : s.seq.phase = .localFill) :
    (profile s.product).isSome = true := by
  unfold State.positionOk at h
  simp only [hp, Bool.and_eq_true] at h
  obtain ⟨⟨_, hprofile⟩, _⟩ := h
  exact hprofile

/-- A step at a call is a next state, at a position that the invariant admits. -/
theorem callStep_next {s : State} (h : s.positionOk = true) (hk : s.seq.k < (phaseCalls s).length) :
    ∃ t, callStep s = .next t := by
  obtain ⟨c, _, h'⟩ | h' | ⟨c, r, hc, hr, _⟩ | ⟨hnone, _⟩ := callStep_cases s
  · exact ⟨_, h'⟩
  · exact ⟨_, h'⟩
  · have hadmitted := PanelCmd.admitted_of_positionOk h (findItem_mem hc)
    rw [(PanelCmd.refusal?_eq_none c s).mpr hadmitted] at hr
    cases hr
  · exact absurd hk (Nat.not_lt.mpr (List.getElem?_eq_none_iff.mp hnone))

/-- A step in an operation in progress is a next state, or the refusal behind CLEAR's pixel loop. -/
theorem sequencerStep_next {s : State} (h : s.positionOk = true) (hbusy : s.seq.phase ≠ .idle) :
    (∃ t, sequencerStep s = .next t) ∨
    (s.seq.phase = .localPixels ∧ sequencerStep s = .refused .dimensionsNotAdmitted) := by
  cases hw : s.waiting with
  | true => exact .inl ⟨_, sequencerStep_waiting hw⟩
  | false =>
    by_cases hfill : s.seq.phase = .localFill
    · obtain ⟨t, ht, _⟩ := fillStep_local (profile_of_positionOk h hfill)
      exact .inl ⟨t, (sequencerStep_fill hw hfill).trans ht⟩
    · by_cases hpixels : s.seq.phase = .localPixels
      · rw [sequencerStep_pixels hw hpixels]
        obtain hr | ⟨t, ht, _⟩ := pixelStep_local s
        · exact .inr ⟨hpixels, hr⟩
        · exact .inl ⟨t, ht⟩
      · rw [sequencerStep_callStep hw hfill hpixels]
        exact .inl (callStep_next h (lt_length_of_positionOk h hbusy hfill hpixels))

/-- Settles O56: the acceptance of a request is local work, and the position names a call or local work. -/
theorem noFaultUnderTheInvariant : Obligations.NoFaultUnderTheInvariant := by
  rintro s ⟨_, _, hposition, _⟩
  by_cases hidle : s.seq.phase = .idle
  · exact ⟨(step_idle_local hidle).noFault, fun hbusy => absurd hidle hbusy⟩
  · rw [step_busy hidle]
    have hnext := sequencerStep_next hposition hidle
    refine ⟨?_, fun _ => hnext⟩
    obtain ⟨t, ht⟩ | ⟨_, hr⟩ := hnext
    · rw [ht]; trivial
    · rw [hr]; trivial

/-! ### A panel command from its first call on -/

/-- From the first call of a panel command on nothing stands in front of its calls, if nothing does in front of the
first. -/
theorem clearAt_in_command {s : State} {c : PanelCmd} {k : Nat}
    (hc : findItem s (phaseItems s) k = some (.send c, 0)) (hlut : c = .setLut → s.frametype = 0)
    (hadmitted : PanelCmd.admitted c s) {j : Nat} (hj : j < (PanelCmd.calls c s).length) : clearAt s (k + j) := by
  obtain ⟨pre, post, hitems, _, hk⟩ := findItem_split hc
  have hfound : findItem s (phaseItems s) (k + j) = some (.send c, j) := by
    rw [hitems, hk]
    exact findItem_inside s pre (.send c) post hj
  intro d hd
  rw [hfound] at hd
  cases hd
  exact ⟨frameTypeFails_eq_false hlut, hadmitted⟩

/-- A run over the calls of a panel command goes through them as one script. -/
theorem runSequencer_command {s : State} {c : PanelCmd} (hw : s.waiting = false)
    (hc : findItem s (phaseItems s) s.seq.k = some (.send c, 0)) (hlut : c = .setLut → s.frametype = 0)
    (hadmitted : PanelCmd.admitted c s) :
    runSequencer (PanelCmd.calls c s).length s = goOn 0 (runCalls (PanelCmd.calls c s) s) := by
  obtain ⟨pre, post, hitems, hpos, hk⟩ := findItem_split hc
  have hcalls : phaseCalls s = pre.flatMap (fun i => i.calls s) ++
      (PanelCmd.calls c s ++ post.flatMap fun i => i.calls s) := by
    unfold phaseCalls
    rw [hitems, List.flatMap_append, List.flatMap_cons]
    rfl
  exact runSequencer_calls (PanelCmd.calls c s) _ _ s (List.ne_nil_of_length_pos hpos) hcalls hk hw
    (fun j hj => clearAt_in_command hc hlut hadmitted hj) 0

/-- The Sleep phase is the one that sends P_DEEP_SLEEP, and it sends nothing else (44_panel_sequencer R256). -/
theorem phase_of_deepSleep_mem {s : State} (h : Item.send .deepSleep ∈ phaseItems s) : s.seq.phase = .sleep := by
  unfold phaseItems at h
  cases hp : s.seq.phase <;> simp only [hp] at h
  case sleep => rfl
  case rows => cases hc : s.colorNonzero s.seq.row.toNat <;> simp [hc, rowItems] at h
  all_goals simp [setupItems, resetItems, initItems, windowItems, triggerItems] at h

/-- P_DEEP_SLEEP puts the panel to sleep as the end of the Sleep phase does, so behind its calls the two agree
(44_panel_sequencer R256). -/
theorem settle_asleep {s : State} (hsleep : s.seq.phase = .sleep) (hw : s.waiting = false)
    (hend : (phaseCalls s).length ≤ s.seq.k) : settle { s with pstate := .asleep } = settle s := by
  have hbusy : s.seq.phase ≠ .idle := by simp [hsleep]
  have hcalls : phaseCalls { s with pstate := .asleep } = phaseCalls s := by
    simp [phaseCalls, phaseItems, hsleep, sleepItems, Item.calls, PanelCmd.calls, PanelCmd.wire?, wireDeepSleep]
  rw [settle_end (s := { s with pstate := .asleep }) hbusy hw (by rw [hcalls]; exact hend), settle_end hbusy hw hend]
  simp [phaseEnd, hsleep]

/-- Behind the calls of a panel command the position moves on as it does behind the meaning of the command. -/
theorem goOn_command {s : State} {c : PanelCmd} (hw : s.waiting = false)
    (hc : findItem s (phaseItems s) s.seq.k = some (.send c, 0)) (hadmitted : PanelCmd.admitted c s) {t : State}
    (ht : exec c.instr s = .next t) : goOn 0 (runCalls (PanelCmd.calls c s) s) = .next (settle t) := by
  rw [exec_panel_eq c s hadmitted] at ht
  cases hr : runCalls (PanelCmd.calls c s) s with
  | stop u =>
    rw [hr] at ht
    cases ht
    rw [goOn, settle_stopped (stopped_of_runCalls hr)]
  | go u =>
    obtain ⟨rest, _, rfl⟩ := runCalls_go hr
    rw [hr] at ht
    cases ht
    rw [goOn, runSequencer]
    dsimp only
    split
    · rename_i hdeep
      subst hdeep
      have hsleep := phase_of_deepSleep_mem (findItem_mem hc)
      rw [settle_asleep (s := s.afterCalls _ rest) hsleep hw]
      rw [phaseCalls_afterCalls]
      simp [phaseCalls, phaseItems, hsleep, sleepItems, Item.calls, State.afterCalls]
    · rfl

/-- The meaning of a command without a payload is the refusal that the sequencer finds (entries 12 and 13). -/
theorem exec_refusal {s : State} {c : PanelCmd} {r : Refusal} (h : PanelCmd.refusal? c s = some r) :
    exec c.instr s = .refused r := by
  cases c
  case ramXRange =>
    simp only [PanelCmd.refusal?] at h
    split at h <;> cases h
    exact if_pos ‹_›
  case ramYRange =>
    simp only [PanelCmd.refusal?] at h
    split at h <;> cases h
    exact if_pos ‹_›
  case writeBw =>
    simp only [PanelCmd.refusal?] at h
    split at h <;> cases h
    rename_i hw8
    show send (.wp _ (s.bwRow _)) s = _
    rw [show s.bwRow s.seq.row.toNat = [] by simp [State.bwRow, State.planeRow, hw8]]
    rfl
  all_goals cases h

/-- At the first call of a command without a payload the step is its refusal. -/
theorem step_refusal {s : State} {c : PanelCmd} {r : Refusal} (hw : s.waiting = false)
    (hc : findItem s (phaseItems s) s.seq.k = some (.send c, 0)) (hlut : c = .setLut → s.frametype = 0)
    (h : PanelCmd.refusal? c s = some r) : step s = .refused r := by
  obtain ⟨hidle, hfill, hpixels⟩ := phase_of_phaseItems (List.ne_nil_of_mem (findItem_mem hc))
  have hframe := frameTypeFails_eq_false hlut
  have hobstacle : obstacle? s = some (.refused r) := by
    unfold obstacle?
    rw [hc]
    simp [hframe, h]
  rw [step_busy hidle, sequencerStep_callStep hw hfill hpixels, callStep, hobstacle]

/-- Settles O7: the calls of the command are one script of the run, and a command without a payload is refused. -/
theorem stepRunsThePanelCommand : Obligations.StepRunsThePanelCommand := by
  intro s c hbusy hw hc hlut
  cases hrefusal : PanelCmd.refusal? c s with
  | some r =>
    have hexec := exec_refusal hrefusal
    refine ⟨1, Nat.le_refl 1, fun t ht => ?_, fun r' hr' => ?_⟩
    · rw [hexec] at ht
      cases ht
    · rw [hexec] at hr'
      cases hr'
      exact run_refused 0 (step_refusal hw hc hlut hrefusal)
  | none =>
    have hadmitted := (PanelCmd.refusal?_eq_none c s).mp hrefusal
    obtain ⟨_, _, _, hpos, _⟩ := findItem_split hc
    obtain ⟨n, hn, hrun⟩ := runSequencer_is_run (PanelCmd.calls c s).length s
    refine ⟨n, hn hpos hbusy hw, fun t ht => ?_, fun r hr => ?_⟩
    · exact hrun.trans ((runSequencer_command hw hc hlut hadmitted).trans (goOn_command hw hc hadmitted ht))
    · rw [exec_panel_eq c s hadmitted] at hr
      cases hr

/-! ### Reset and STATUS -/

/-- Settles O10: the reset state gives each value. -/
theorem resetState : Obligations.ResetState := ⟨by decide, rfl, rfl, rfl, fun _ => rfl⟩

/-- Settles O12: STATUS is its fields side by side. -/
theorem statusLayout : Obligations.StatusLayout := by
  intro s
  have hpstate : s.statusWord.extractLsb' 3 2 = s.pstate.code := BitVec.extractLsb'_append_eq_left
  simp only [State.statusWord, BitVec.getLsbD_append] at hpstate ⊢
  refine ⟨by simp, by simp, by simp, ?_⟩
  rw [hpstate]
  cases s.pstate <;> rfl

end Sys2Proof.Machine
end

section
/-! PROOFS. The memory statements: pixel fields (20_memory R61, R62, R67), transmitted rows (R70), and that an update
reads the Frame Store and never writes it (R63). -/

namespace Sys2Proof.Machine

open Sys2Proof.Claims

/-! ### Pixel fields -/

/-- Settles O25: the byte and the offset of a field determine the index, and the index its pixel. -/
theorem pixelFieldsFitAndDiffer : Obligations.PixelFieldsFitAndDiffer := by
  intro w h x y x' y' hx hy hx'
  refine ⟨offOf_even w x y, offOf_le w x y, byteOf_lt hx hy, fun ⟨hbyte, hoff⟩ => ?_⟩
  exact pixelIndex_inj hx hx' (by rw [pixelIndex_eq, pixelIndex_eq, hbyte, hoff])

/-! ### Rows -/

/-- The places of the pixels of a group are inside the byte. -/
theorem rowBitPos_lt (msbFirst : Bool) {i : Nat} (h : i < 8) : rowBitPos msbFirst i < 8 := by
  unfold rowBitPos
  split <;> omega

/-- Two pixels of a group go to two places, whichever comes first. -/
theorem rowBitPos_inj (msbFirst : Bool) {i j : Nat} (hi : i < 8) (hj : j < 8) :
    rowBitPos msbFirst i = rowBitPos msbFirst j ↔ i = j := by
  unfold rowBitPos
  split <;> omega

/-- A bit of a packed byte is the bit of the pixel that goes to that place, where it was packed. -/
theorem packBits_getLsbD (msbFirst : Bool) (bit : Nat → Bool) {n i : Nat} (hn : n ≤ 8) (hi : i < 8) :
    (packBits msbFirst bit n).getLsbD (rowBitPos msbFirst i) = (decide (i < n) && bit i) := by
  induction n with
  | zero => simp [packBits]
  | succ n ih =>
    have hone : (1#8 <<< rowBitPos msbFirst n).getLsbD (rowBitPos msbFirst i) = decide (i = n) := by
      rw [← BitVec.twoPow_eq, BitVec.getLsbD_twoPow, decide_eq_true (rowBitPos_lt msbFirst (by omega)), Bool.true_and]
      simp only [rowBitPos_inj msbFirst (show n < 8 by omega) hi, eq_comm]
    rw [packBits, BitVec.getLsbD_or, ih (by omega)]
    by_cases heq : i = n
    · subst heq
      cases bit i <;> simp [hone]
    · have hlt : i < n + 1 ↔ i < n := by omega
      cases bit n <;> simp [hone, heq, hlt]

@[simp] theorem planeRow_length (s : State) (msbFirst : Bool) (plane r : Nat) :
    (s.planeRow msbFirst plane r).length = s.fsWidth.toNat / 8 := by
  simp [State.planeRow, State.w8]

/-- Byte `j` of a plane's row, and the bit in it of pixel `8 * j + i` (20_memory R70). -/
theorem planeRow_bit (s : State) (msbFirst : Bool) (plane r : Nat) {j i : Nat} (hj : j < s.fsWidth.toNat / 8)
    (hi : i < 8) :
    ∃ b, (s.planeRow msbFirst plane r)[j]? = some b ∧
      b.getLsbD (rowBitPos msbFirst i) = (s.pixelCode (8 * j + i) r).getLsbD plane := by
  refine ⟨s.planeByte msbFirst plane r j, ?_, ?_⟩
  · simp [State.planeRow, State.w8, hj]
  · rw [State.planeByte, packBits_getLsbD msbFirst _ (Nat.le_refl 8) hi]
    simp [hi]

/-- Settles O28: both rows are plane rows, with pixel `i` of a group at bit `7 - i`. -/
theorem rowsHoldThePixelBits : Obligations.RowsHoldThePixelBits := by
  intro s r
  refine ⟨planeRow_length s true 0 r, planeRow_length s true 1 r, fun j i hj hi => ?_⟩
  exact ⟨planeRow_bit s true 0 r hj hi, planeRow_bit s true 1 r hj hi⟩

/-! ### The frame of a step -/

theorem SequencerFrame.phaseEnd (s : State) : SequencerFrame s (phaseEnd s) := by
  unfold Machine.phaseEnd
  cases s.seq.phase
  case localPins | reset | rows => dsimp only; split <;> rfl
  all_goals rfl

theorem SequencerFrame.settle (s : State) : SequencerFrame s (settle s) := by
  unfold Machine.settle
  split
  · exact .refl s
  · exact .phaseEnd s

theorem SequencerFrame.resumeCall (s : State) : SequencerFrame s (resumeCall s) := by
  unfold Machine.resumeCall
  split
  · exact .refl s
  · rename_i a rest _
    have htaken : SequencerFrame s { s with answers := rest, waiting := false } := rfl
    exact htaken.trans ((SequencerFrame.answered _ a).trans (.settle _))

theorem SequencerFrame.checkUpdate {s t : State} (h : checkUpdate s = .next t) : SequencerFrame s t := by
  obtain ⟨code, h'⟩ | h' | ⟨_, h'⟩ := checkUpdate_cases s <;> rw [h'] at h <;> cases h <;> rfl

theorem SequencerFrame.callStep {s t : State} (h : callStep s = .next t) : SequencerFrame s t := by
  obtain ⟨c, _, h'⟩ | h' | ⟨_, _, _, _, h'⟩ | ⟨_, h'⟩ := callStep_cases s <;> rw [h'] at h <;> cases h
  · exact (SequencerFrame.cap c s).trans (.settle _)
  · exact .abort s _

/-! ### No way back to LOCAL

LOCAL is where the core writes the Frame Store itself (41_frame_store R151, 44_panel_sequencer R260). An operation that
has left it does not come back to it. -/

/-- The position is not in LOCAL: it is idle or in one of the six phases of an update (10_state R24). -/
def State.outsideLocal (s : State) : Prop := s.seq.phase.code ≠ 7

theorem State.outsideLocal_finish (s : State) (code : Code) (d : DataWord) : (s.finish code d).outsideLocal := by
  simp [State.outsideLocal, Phase.code]

theorem State.outsideLocal_abort (s : State) (code : Code) : (s.abort code).outsideLocal :=
  s.outsideLocal_finish code 0

theorem phaseEnd_outsideLocal {s : State} (h : s.outsideLocal) : (phaseEnd s).outsideLocal := by
  unfold phaseEnd
  cases hp : s.seq.phase
  case localPins | localFill | localPixels => exact absurd (by rw [hp]; rfl) h
  case idle => exact h
  case reset | rows => dsimp only; split <;> simp [State.outsideLocal, Phase.code]
  all_goals simp [State.outsideLocal, Phase.code]

theorem settle_outsideLocal {s : State} (h : s.outsideLocal) : (settle s).outsideLocal := by
  unfold settle
  split
  · exact h
  · exact phaseEnd_outsideLocal h

theorem answered_outsideLocal {s : State} (h : s.outsideLocal) (a : Code) : (s.answered a).state.outsideLocal := by
  unfold State.answered
  split
  · exact h
  · exact s.outsideLocal_abort a

theorem cap_outsideLocal {s : State} (h : s.outsideLocal) (c : Call) : (cap c s).state.outsideLocal := by
  unfold cap
  split
  · exact h
  · rename_i a rest _
    exact answered_outsideLocal (s := { s.emit c with answers := rest }) h a

theorem resumeCall_outsideLocal {s : State} (h : s.outsideLocal) : (resumeCall s).outsideLocal := by
  unfold resumeCall
  split
  · exact h
  · rename_i a rest _
    exact settle_outsideLocal (answered_outsideLocal (s := { s with answers := rest, waiting := false }) h a)

theorem callStep_outsideLocal {s t : State} (hs : s.outsideLocal) (h : callStep s = .next t) : t.outsideLocal := by
  obtain ⟨c, _, h'⟩ | h' | ⟨_, _, _, _, h'⟩ | ⟨_, h'⟩ := callStep_cases s <;> rw [h'] at h <;> cases h
  · exact settle_outsideLocal (cap_outsideLocal hs c)
  · exact State.outsideLocal_abort _ _

/-- The preconditions of an update lead out of LOCAL (44_panel_sequencer R231, R233). -/
theorem checkUpdate_outsideLocal {s t : State} (h : checkUpdate s = .next t) : t.outsideLocal := by
  obtain ⟨code, h'⟩ | h' | ⟨_, h'⟩ := checkUpdate_cases s <;> rw [h'] at h <;> cases h
  · exact State.outsideLocal_finish _ _ _
  · simp [State.outsideLocal, Phase.code]

/-- A core step outside LOCAL writes nothing but the sequencer's fields and stays outside LOCAL. -/
theorem sequencerStep_frame {s t : State} (hs : s.outsideLocal) (h : sequencerStep s = .next t) :
    SequencerFrame s t ∧ t.outsideLocal := by
  cases hw : s.waiting with
  | true =>
    rw [sequencerStep_waiting hw] at h
    cases h
    exact ⟨.resumeCall s, resumeCall_outsideLocal hs⟩
  | false =>
    have hfill : s.seq.phase ≠ .localFill := fun hp => hs (by rw [hp]; rfl)
    have hpixels : s.seq.phase ≠ .localPixels := fun hp => hs (by rw [hp]; rfl)
    rw [sequencerStep_callStep hw hfill hpixels] at h
    exact ⟨.callStep h, callStep_outsideLocal hs h⟩

/-- So does a run of core steps. -/
theorem runSequencer_frame {fuel : Nat} {s t : State} (hs : s.outsideLocal) (h : runSequencer fuel s = .next t) :
    SequencerFrame s t := by
  induction fuel generalizing s with
  | zero =>
    cases h
    exact .refl _
  | succ fuel ih =>
    rw [runSequencer] at h
    split at h
    · cases h
      exact .refl _
    · split at h
      · rename_i u hu
        obtain ⟨hframe, houtside⟩ := sequencerStep_frame hs hu
        exact hframe.trans (ih houtside h)
      · cases h
      · cases h

/-- An update, whatever its preconditions lead to, writes nothing but the sequencer's fields. -/
theorem runOutcome_checkUpdate_frame {s t : State} (h : runOutcome (checkUpdate s) = .next t) : SequencerFrame s t := by
  cases hcheck : checkUpdate s with
  | next u =>
    rw [hcheck] at h
    exact (SequencerFrame.checkUpdate hcheck).trans (runSequencer_frame (checkUpdate_outsideLocal hcheck) h)
  | fault f =>
    rw [hcheck] at h
    cases h
  | refused r =>
    rw [hcheck] at h
    cases h

/-- Settles O46: an update starts from its op code in the latch, and every step of it is outside LOCAL. -/
theorem updateNeverWritesTheStore : Obligations.UpdateNeverWritesTheStore := by
  intro s t h
  have hbegin : SequencerFrame (latched s 6) (s.begin 6) := rfl
  exact hbegin.trans (runOutcome_checkUpdate_frame h)

end Sys2Proof.Machine
end

section
/-! PROOFS. The encoding statements: request words and their fields (30_encoding R91, R92), panel command identifiers
(R101), the pair of a number (R104), and the reserved op codes (R98). -/

namespace Sys2Proof

/-! ### The fields of a request word -/

@[simp] theorem requestWord_op (op sub : BitVec 4) (y x : Half) : RequestWord.op (requestWord op sub y x) = op := by
  rw [RequestWord.op, requestWord, BitVec.extractLsb'_append_eq_of_le (by decide)]
  exact BitVec.extractLsb'_append_eq_left

@[simp] theorem requestWord_sub (op sub : BitVec 4) (y x : Half) : RequestWord.sub (requestWord op sub y x) = sub := by
  rw [RequestWord.sub, requestWord, BitVec.extractLsb'_append_eq_of_le (by decide)]
  exact BitVec.extractLsb'_append_eq_right

@[simp] theorem requestWord_y (op sub : BitVec 4) (y x : Half) : RequestWord.y (requestWord op sub y x) = y := by
  rw [RequestWord.y, requestWord, BitVec.extractLsb'_append_eq_of_add_le (by decide),
    BitVec.extractLsb'_append_eq_of_add_le (by decide)]
  exact BitVec.extractLsb'_append_eq_left

@[simp] theorem requestWord_x (op sub : BitVec 4) (y x : Half) : RequestWord.x (requestWord op sub y x) = x := by
  rw [RequestWord.x, requestWord, BitVec.extractLsb'_append_eq_of_add_le (by decide),
    BitVec.extractLsb'_append_eq_of_add_le (by decide)]
  exact BitVec.extractLsb'_append_eq_right

/-- A word whose reserved byte is 0 is its four other fields around it (30_encoding R91). -/
theorem requestWord_of_rsvIsZero {w : RequestWord} (h : rsvIsZero w = true) :
    requestWord (RequestWord.op w) (RequestWord.sub w) (RequestWord.y w) (RequestWord.x w) = w := by
  have hrsv : w.extractLsb' 32 8 = 0#8 := by simpa [rsvIsZero] using h
  have hyx : RequestWord.y w ++ RequestWord.x w = w.extractLsb' 0 32 :=
    BitVec.extractLsb'_append_extractLsb'_eq_extractLsb' rfl
  have hop : RequestWord.op w ++ RequestWord.sub w = w.extractLsb' 40 8 :=
    BitVec.extractLsb'_append_extractLsb'_eq_extractLsb' rfl
  have hlow : w.extractLsb' 32 8 ++ w.extractLsb' 0 32 = w.extractLsb' 0 40 :=
    BitVec.extractLsb'_append_extractLsb'_eq_extractLsb' rfl
  have hall : w.extractLsb' 40 8 ++ w.extractLsb' 0 40 = w.extractLsb' 0 48 :=
    BitVec.extractLsb'_append_extractLsb'_eq_extractLsb' rfl
  rw [requestWord, hyx, hop, ← hrsv, hlow, hall, BitVec.extractLsb'_eq_self]

/-! ### Operands -/

@[simp] theorem Colour.ofBits_bits (c : Colour) : Colour.ofBits c.bits = c := by cases c <;> rfl

@[simp] theorem Colour.bits_ofBits : ∀ b : BitVec 2, (Colour.ofBits b).bits = b := by decide

@[simp] theorem FrameType.ofBits_bits (m : FrameType) : FrameType.ofBits m.bits = m := by cases m <;> rfl

@[simp] theorem FrameType.bits_ofBits : ∀ b : BitVec 2, (FrameType.ofBits b).bits = b := by decide

/-- A field with its bits from `n` on cleared. -/
def keepLow {w : Nat} (n : Nat) (b : BitVec w) : BitVec w := BitVec.ofNat w (b.toNat % 2 ^ n)

theorem keepLow_of_lt {w n : Nat} {b : BitVec w} (h : b.toNat < 2 ^ n) : keepLow n b = b := by
  rw [keepLow, Nat.mod_eq_of_lt h, BitVec.ofNat_toNat, BitVec.setWidth_eq]

/-- Only the kept bits matter. -/
theorem keepLow_congr {w n : Nat} {a b : BitVec w} (h : a.toNat % 2 ^ n = b.toNat % 2 ^ n) :
    keepLow n a = keepLow n b :=
  congrArg (BitVec.ofNat w) h

@[simp] theorem keepLow_width {w : Nat} (b : BitVec w) : keepLow w b = b := keepLow_of_lt b.isLt

@[simp] theorem keepLow_zero {w : Nat} (b : BitVec w) : keepLow 0 b = 0 := by
  simp [keepLow, Nat.mod_one]

/-- The low bits of a field, read and then put behind zeros, are the field with the others cleared. -/
theorem zero_append_extractLsb' (k n : Nat) (b : BitVec (k + n)) : 0#k ++ b.extractLsb' 0 n = keepLow n b := by
  apply BitVec.eq_of_toNat_eq
  have hle : b.toNat % 2 ^ n ≤ b.toNat := Nat.mod_le _ _
  have hlt : b.toNat % 2 ^ n < 2 ^ (k + n) := lt_of_le_of_lt hle b.isLt
  simp [keepLow, Nat.mod_eq_of_lt hlt]

/-! ### How operands stand in their fields (30_encoding R91)

A colour or mode is the low two bits of `sub`, the byte of FS_WR the low byte of `y`, and the value of CSR_WRITE `y`
and `x` side by side. -/

theorem low_bits_of_sub (b : BitVec 2) : (0#2 ++ b : BitVec 4).extractLsb' 0 2 = b := BitVec.extractLsb'_append_eq_right

theorem sub_of_low_bits (sub : BitVec 4) : 0#2 ++ sub.extractLsb' 0 2 = keepLow 2 sub := zero_append_extractLsb' 2 2 sub

theorem low_byte_of_y (b : Byte) : (0#8 ++ b : Half).extractLsb' 0 8 = b := BitVec.extractLsb'_append_eq_right

theorem y_of_low_byte (y : Half) : 0#8 ++ y.extractLsb' 0 8 = keepLow 8 y := zero_append_extractLsb' 8 8 y

theorem high_half (y x : Half) : (y ++ x : DataWord).extractLsb' 16 16 = y := BitVec.extractLsb'_append_eq_left

theorem low_half (y x : Half) : (y ++ x : DataWord).extractLsb' 0 16 = x := BitVec.extractLsb'_append_eq_right

theorem halves_append (v : DataWord) : v.extractLsb' 16 16 ++ v.extractLsb' 0 16 = v :=
  (BitVec.extractLsb'_append_extractLsb'_eq_extractLsb' rfl).trans BitVec.extractLsb'_eq_self

/-! ### Host operations -/

/-- Settles O3: each row of the operation table reads back the fields that it wrote. -/
theorem hostOperationsRoundTrip : Obligations.HostOperationsRoundTrip := by
  intro p i h
  cases i <;> cases h
  case setPixel | updateByMode => simp [encode, decode, decodeRequest, low_bits_of_sub]
  case csrWrite => simp [encode, decode, decodeRequest, halves_append]
  case fsWr => simp [encode, decode, decodeRequest, low_byte_of_y]
  all_goals simp [encode, decode, decodeRequest]

/-- The word that asks for the same as `w` with every ignored bit 0 (30_encoding R91). -/
def cleanRequest (w : RequestWord) : RequestWord :=
  requestWord (RequestWord.op w) (keepLow (fieldsRead (RequestWord.op w)).1 (RequestWord.sub w))
    (keepLow (fieldsRead (RequestWord.op w)).2.1 (RequestWord.y w))
    (keepLow (fieldsRead (RequestWord.op w)).2.2 (RequestWord.x w))

theorem cleanRequest_of_wellFormed {w : RequestWord} (h : wellFormedRequest w = true) : cleanRequest w = w := by
  simp only [wellFormedRequest, Bool.and_eq_true, subIsClean, yIsClean, xIsClean, decide_eq_true_eq] at h
  obtain ⟨⟨⟨hrsv, hsub⟩, hy⟩, hx⟩ := h
  have hsub' : keepLow (fieldsRead (RequestWord.op w)).1 (RequestWord.sub w) = RequestWord.sub w := keepLow_of_lt hsub
  have hy' : keepLow (fieldsRead (RequestWord.op w)).2.1 (RequestWord.y w) = RequestWord.y w := keepLow_of_lt hy
  have hx' : keepLow (fieldsRead (RequestWord.op w)).2.2 (RequestWord.x w) = RequestWord.x w := keepLow_of_lt hx
  rw [cleanRequest, hsub', hy', hx', requestWord_of_rsvIsZero hrsv]

/-- The op codes with operands, and those without (30_encoding R91). -/
theorem op_cases : ∀ op : BitVec 4, op = 0x5 ∨ op = 0x7 ∨ op = 0x9 ∨ op = 0xA ∨ op = 0xB ∨ op = 0xC ∨
    op ∈ [0x0, 0x1, 0x2, 0x3, 0x4, 0x6, 0x8, 0xD, 0xE, 0xF] := by decide

/-- Decoding and encoding again clears the ignored bits of a request word and changes no other. -/
theorem encode_decodeRequest (p : Config.OpenParams) (w : RequestWord) :
    encode p (decodeRequest w) = .request (cleanRequest w) := by
  unfold cleanRequest decodeRequest
  obtain hsetPixel | hupdateByMode | hcsrRead | hcsrWrite | hfsRd | hfsWr | hbare := op_cases (RequestWord.op w)
  · simp [hsetPixel, encode, fieldsRead, sub_of_low_bits]
  · simp [hupdateByMode, encode, fieldsRead, sub_of_low_bits]
  · simp [hcsrRead, encode, fieldsRead]
  · simp [hcsrWrite, encode, fieldsRead, high_half, low_half]
  · simp [hfsRd, encode, fieldsRead]
  · simp [hfsWr, encode, fieldsRead, y_of_low_byte]
  · generalize RequestWord.op w = op at hbare ⊢
    fin_cases hbare <;> simp [encode, fieldsRead]

/-- Two words that differ in ignored bits alone ask for the same operation: their common encoding decodes to it. -/
theorem decodeRequest_eq_of_cleanRequest_eq {w w' : RequestWord} (h : cleanRequest w = cleanRequest w') :
    decodeRequest w = decodeRequest w' := by
  have hback (v : RequestWord) : decode Config.t0 (.request (cleanRequest v)) = .ok (decodeRequest v) := by
    rw [← encode_decodeRequest Config.t0 v]
    exact hostOperationsRoundTrip Config.t0 _ (Machine.decodeRequest_panelCmd? v)
  have hw := hback w
  rw [h, hback w'] at hw
  exact (Except.ok.inj hw).symm

/-- Settles O2: the word with the ignored bits cleared is made from the op code and the fields that are read. -/
theorem ignoredFieldsDoNotMatter : Obligations.IgnoredFieldsDoNotMatter := by
  intro w w' hop hsub hy hx
  apply decodeRequest_eq_of_cleanRequest_eq
  have hop' : RequestWord.op w' = RequestWord.op w := hop.symm
  have hsub' : keepLow (fieldsRead (RequestWord.op w)).1 (RequestWord.sub w) =
      keepLow (fieldsRead (RequestWord.op w)).1 (RequestWord.sub w') := keepLow_congr hsub
  have hy' : keepLow (fieldsRead (RequestWord.op w)).2.1 (RequestWord.y w) =
      keepLow (fieldsRead (RequestWord.op w)).2.1 (RequestWord.y w') := keepLow_congr hy
  have hx' : keepLow (fieldsRead (RequestWord.op w)).2.2 (RequestWord.x w) =
      keepLow (fieldsRead (RequestWord.op w)).2.2 (RequestWord.x w') := keepLow_congr hx
  rw [cleanRequest, cleanRequest, hop', hsub', hy', hx']

/-- Settles O4: a well-formed word has no ignored bit to clear. -/
theorem wellFormedWordsRoundTrip : Obligations.WellFormedWordsRoundTrip := by
  intro p w h
  rw [encode_decodeRequest, cleanRequest_of_wellFormed h]

/-- Settles O1: each word is decoded. -/
theorem requestWordsDecode : Obligations.RequestWordsDecode := by
  unfold Obligations.RequestWordsDecode
  decide

/-! ### Panel commands -/

theorem mem_commandIds (id : CommandId) : id ∈ commandIds := by cases id <;> decide

/-- Where all identifiers differ, the lookup of an identifier's byte finds it in every list that holds it. -/
theorem findIdentifier_of_mem {p : Config.OpenParams}
    (hinj : ∀ a b : CommandId, identifier p a = identifier p b → a = b)
    {id : CommandId} {ids : List CommandId} (h : id ∈ ids) : findIdentifier p (identifier p id) ids = some id := by
  induction ids with
  | nil => cases h
  | cons first ids ih =>
    rw [findIdentifier]
    split
    · rename_i hbyte
      rw [hinj first id hbyte]
    · rename_i hbyte
      obtain rfl | hmem := List.mem_cons.mp h
      · exact absurd rfl hbyte
      · exact ih hmem

theorem encode_commandId (p : Config.OpenParams) (id : CommandId) :
    encode p id.instr = .command (identifier p id) := by cases id <;> rfl

/-- Every panel command but the override is the instruction of an identifier (30_encoding R101). -/
theorem PanelCmd.exists_commandId {c : PanelCmd} (h : c ≠ .sourceOverride) : ∃ id ∈ commandIds, id.instr = c.instr := by
  cases c
  case sourceOverride => exact absurd rfl h
  all_goals decide

theorem decode_encode_commandId {p : Config.OpenParams}
    (hinj : ∀ a b : CommandId, identifier p a = identifier p b → a = b) (id : CommandId) :
    decode p (encode p id.instr) = .ok id.instr := by
  rw [encode_commandId, decode, findIdentifier_of_mem hinj (mem_commandIds id)]

/-- Settles O5: every command but the override has an identifier, and the override that of the source voltage. -/
theorem panelIdentifiersRoundTrip : Obligations.PanelIdentifiersRoundTrip := by
  intro p hinj
  refine ⟨fun c hc => ?_, decode_encode_commandId hinj .sourceVoltage⟩
  obtain ⟨id, _, hid⟩ := PanelCmd.exists_commandId hc
  rw [← hid]
  exact decode_encode_commandId hinj id

end Sys2Proof

namespace Sys2Proof.Machine

open Sys2Proof.Claims

/-! ### Pairs -/

/-- The two bytes of a pair are bits 9:2 and bits 7:0 of the number (30_encoding R104). -/
theorem pair_eq_pairOf (v : Nat) : pair v = pairOf v := by
  have hhigh : BitVec.ofNat 8 (v >>> 2) = BitVec.ofNat 8 (v / 4 % 256) := by
    apply BitVec.eq_of_toNat_eq
    simp [Nat.shiftRight_eq_div_pow]
  have hlow : BitVec.ofNat 8 v = BitVec.ofNat 8 (v % 256) := by
    apply BitVec.eq_of_toNat_eq
    simp
  rw [pair, pairWith, pairOf, ← hhigh, ← hlow]

/-- Together they keep bits 9:0 and no other. -/
theorem pair_eq_iff (u v : Nat) : pair u = pair v ↔ u % 1024 = v % 1024 := by
  have hbytes : pair u = pair v ↔ u / 4 % 256 = v / 4 % 256 ∧ u % 256 = v % 256 := by
    simp [pair_eq_pairOf, pairOf, ← BitVec.toNat_inj]
  rw [hbytes]
  omega

theorem pair_head_ne_zero {v : Nat} (hlo : 4 ≤ v) (hhi : v ≤ 1023) : (pair v).head? ≠ some 0 := by
  have hne : v / 4 % 256 ≠ 0 := by omega
  simpa [pair_eq_pairOf, pairOf, ← BitVec.toNat_inj] using hne

/-- Settles O26: two numbers have the same pair exactly where bits 9:0 agree. -/
theorem pairKeepsTenBits : Obligations.PairKeepsTenBits := by
  refine ⟨pair_eq_pairOf, fun v => ?_, fun u v hu hv h => ?_, fun v => pair_head_ne_zero, by decide⟩
  · rw [pair_eq_iff, Nat.mod_mod]
  · rwa [pair_eq_iff, Nat.mod_eq_of_lt hu, Nat.mod_eq_of_lt hv] at h

/-! ### Reserved op codes -/

/-- Settles O15: each of the four ends at once with NotAvailable. -/
theorem reservedOpsAnswerNotAvailable : Obligations.ReservedOpsAnswerNotAvailable :=
  fun _ => ⟨rfl, rfl, rfl, rfl⟩

end Sys2Proof.Machine
end

section
/-! PROOFS. The statements about pixels: what SET_PIXEL checks, writes and leaves unchanged (40_pixel_codec). -/

namespace Sys2Proof.Machine

open Sys2Proof.Claims

/-! ### The body of SET_PIXEL, a check at a time (40_pixel_codec R131, R137) -/

/-- The four checks of SET_PIXEL, all passed (40_pixel_codec R131). -/
structure AcceptsPixel (s : State) (x y : Nat) (c : Colour) : Prop where
  valid : s.fsValid = true
  column : x < s.fsWidth.toNat
  row : y < s.fsHeight.toNat
  enabled : s.capOf c = true
  stored : byteOf s.fsWidth.toNat x y < s.fsBytelen.toNat

theorem setPixel_noStore {x y : Nat} {c : Colour} {s : State} (hvalid : s.fsValid = false) :
    setPixel x y c s = (Code.notConfigured, s) := if_pos hvalid

theorem setPixel_outside {x y : Nat} {c : Colour} {s : State} (hvalid : s.fsValid = true)
    (hout : s.fsWidth.toNat ≤ x ∨ s.fsHeight.toNat ≤ y) : setPixel x y c s = (Code.outOfRange, s) := by
  simp only [setPixel]
  rw [if_neg (by simp [hvalid]), if_pos (by omega)]

theorem setPixel_disabled {x y : Nat} {c : Colour} {s : State} (hvalid : s.fsValid = true)
    (hx : x < s.fsWidth.toNat) (hy : y < s.fsHeight.toNat) (hcap : s.capOf c = false) :
    setPixel x y c s = (Code.notAvailable, s) := by
  simp only [setPixel]
  rw [if_neg (by simp [hvalid]), if_neg (not_not.mpr ⟨hx, hy⟩), if_pos hcap]

theorem setPixel_notStored {x y : Nat} {c : Colour} {s : State} (hvalid : s.fsValid = true)
    (hx : x < s.fsWidth.toNat) (hy : y < s.fsHeight.toNat) (hcap : s.capOf c = true)
    (hlen : s.fsBytelen.toNat ≤ byteOf s.fsWidth.toNat x y) : setPixel x y c s = (Code.failure, s) := by
  simp only [setPixel]
  rw [if_neg (by simp [hvalid]), if_neg (not_not.mpr ⟨hx, hy⟩), if_neg (by simp [hcap]), if_pos hlen]

theorem setPixel_accepted {x y : Nat} {c : Colour} {s : State} (h : AcceptsPixel s x y c) :
    setPixel x y c s = (Code.ok, pixelWritten x y c s) := setPixel_ok h.valid h.column h.row h.enabled h.stored

/-- SET_PIXEL fails without a change, or accepts the pixel and writes it. -/
theorem setPixel_failed_or_accepted (x y : Nat) (c : Colour) (s : State) :
    ((setPixel x y c s).2 = s ∧ (setPixel x y c s).1 ≠ Code.ok) ∨ AcceptsPixel s x y c := by
  obtain hfailed | ⟨hvalid, hx, hy, hcap, hlen, _⟩ := setPixel_cases x y c s
  · exact .inl hfailed
  · exact .inr ⟨hvalid, hx, hy, hcap, hlen⟩

/-! ### The checks read nothing that SET_PIXEL changes -/

theorem AcceptsPixel.ended {x y : Nat} {c : Colour} {s : State} (h : AcceptsPixel s x y c) (code : Code)
    (data : DataWord) : AcceptsPixel (ended s code data) x y c :=
  ⟨h.valid, h.column, h.row, h.enabled, h.stored⟩

theorem AcceptsPixel.pixelWritten {x y : Nat} {c : Colour} {s : State} (h : AcceptsPixel s x y c) (x' y' : Nat)
    (d : Colour) : AcceptsPixel (pixelWritten x' y' d s) x y c :=
  ⟨h.valid, h.column, h.row, h.enabled, h.stored⟩

/-- A SET_PIXEL is accepted after another as before it, whether the other was accepted or failed. -/
theorem AcceptsPixel.setPixel {x y : Nat} {c : Colour} {s : State} (h : AcceptsPixel s x y c) (x' y' : Nat)
    (d : Colour) : AcceptsPixel (setPixel x' y' d s).2 x y c := by
  obtain ⟨hfailed, _⟩ | haccepted := setPixel_failed_or_accepted x' y' d s
  · rwa [hfailed]
  · rw [setPixel_accepted haccepted]
    exact h.pixelWritten x' y' d

/-! ### The instruction -/

/-- SET_PIXEL ends at once, with the code of its body. -/
theorem exec_setPixel (x y : Half) (c : Colour) (s : State) :
    exec (.setPixel x y c) s =
      .next (ended (setPixel x.toNat y.toNat c s).2 (setPixel x.toNat y.toNat c s).1 0) := rfl

theorem exec_setPixel_of_eq {x y : Half} {c : Colour} {s t : State} {code : Code}
    (h : setPixel x.toNat y.toNat c s = (code, t)) : exec (.setPixel x y c) s = .next (ended t code 0) := by
  rw [exec_setPixel, h]

theorem exec_setPixel_accepted {x y : Half} {c : Colour} {s : State} (h : AcceptsPixel s x.toNat y.toNat c) :
    exec (.setPixel x y c) s = .next (ended (pixelWritten x.toNat y.toNat c s) Code.ok 0) :=
  exec_setPixel_of_eq (setPixel_accepted h)

/-- A SET_PIXEL answered OK passed the checks and wrote the pixel. -/
theorem exec_setPixel_answered_ok {x y : Half} {c : Colour} {s t : State} (h : exec (.setPixel x y c) s = .next t)
    (hok : t.result = Code.ok) :
    AcceptsPixel s x.toNat y.toNat c ∧ t = ended (pixelWritten x.toNat y.toNat c s) Code.ok 0 := by
  rw [exec_setPixel] at h
  cases h
  obtain ⟨_, hcode⟩ | haccepted := setPixel_failed_or_accepted x.toNat y.toNat c s
  · exact absurd hok hcode
  · exact ⟨haccepted, by rw [setPixel_accepted haccepted]⟩

@[simp] theorem readByte_ended (s : State) (code : Code) (data : DataWord) (a : Nat) :
    (ended s code data).readByte a = s.readByte a := rfl

@[simp] theorem pixelCode_ended (s : State) (code : Code) (data : DataWord) (x y : Nat) :
    (ended s code data).pixelCode x y = s.pixelCode x y := rfl

/-- The capability flag of a colour is the COLORCAP bit of the colour's number (40_pixel_codec R133). -/
theorem capOf_eq_getLsbD (s : State) (c : Colour) : s.capOf c = s.colorcap.getLsbD c.bits.toNat := by
  cases c <;> rfl

/-- Settles O21: one equation of the body for each check, with the checks before it passed. -/
theorem setPixelChecksInOrder : Obligations.SetPixelChecksInOrder := by
  intro s x y c bit hbit
  obtain rfl : bit = c.bits.toNat := by
    obtain ⟨rfl, rfl⟩ | ⟨rfl, rfl⟩ | ⟨rfl, rfl⟩ | ⟨rfl, rfl⟩ := hbit <;> rfl
  rw [← capOf_eq_getLsbD]
  exact ⟨fun hvalid => exec_setPixel_of_eq (setPixel_noStore hvalid),
    fun hvalid hout => exec_setPixel_of_eq (setPixel_outside hvalid hout),
    fun hvalid hx hy hcap => exec_setPixel_of_eq (setPixel_disabled hvalid hx hy hcap),
    fun hvalid hx hy hcap hlen => exec_setPixel_of_eq (setPixel_notStored hvalid hx hy hcap hlen)⟩

/-! ### The byte that is written (40_pixel_codec R134) -/

/-- Bits `off` and `off + 1` of the new byte are the code's, the other six the old byte's. -/
theorem setField_getLsbD_eq (b : Byte) (off : Nat) (code : BitVec 2) {i : Nat} (hi : i < 8) :
    (setField b off code).getLsbD i =
      if i = off then code.getLsbD 0 else if i = off + 1 then code.getLsbD 1 else b.getLsbD i := by
  rw [setField_getLsbD b off code i hi]
  obtain hbelow | rfl | rfl | habove : i < off ∨ i = off ∨ i = off + 1 ∨ off + 2 ≤ i := by omega
  · rw [if_pos hbelow, if_neg (by omega), if_neg (by omega)]
  · simp
  · simp
  · rw [if_neg (by omega), if_neg (by omega), if_neg (by omega), if_neg (by omega)]

/-- Settles O22: an accepted pixel is one `setField` of one byte. -/
theorem setPixelReplacesOneField : Obligations.SetPixelReplacesOneField := by
  intro s x y c bit a off code htable ha hoff hvalid hx hy hcap hlen
  obtain ⟨rfl, rfl⟩ : bit = c.bits.toNat ∧ code = codeOf c := by
    obtain ⟨rfl, rfl, rfl⟩ | ⟨rfl, rfl, rfl⟩ | ⟨rfl, rfl, rfl⟩ | ⟨rfl, rfl, rfl⟩ := htable <;> exact ⟨rfl, rfl⟩
  obtain rfl : a = byteOf s.fsWidth.toNat x.toNat y.toNat := ha
  obtain rfl : off = offOf s.fsWidth.toNat x.toNat y.toNat := hoff
  have haccepted : AcceptsPixel s x.toNat y.toNat c := ⟨hvalid, hx, hy, (capOf_eq_getLsbD s c).trans hcap, hlen⟩
  refine ⟨_, exec_setPixel_accepted haccepted, rfl, fun i hi => ?_, fun b hb => ?_⟩
  · rw [readByte_ended, readByte_pixelWritten, if_pos rfl, setField_getLsbD_eq _ _ _ hi]
  · rw [readByte_ended, readByte_pixelWritten, if_neg hb]

/-! ### Reading back (40_pixel_codec R138) -/

/-- Settles O23: by the field laws for the codes, and by the flag of an accepted colour for the decoding. -/
theorem setPixelReadsBack : Obligations.SetPixelReadsBack := by
  refine ⟨fun s => ⟨rfl, rfl, rfl, fun hyellow => ?_, fun hyellow hred => ?_⟩, fun s t x y c hexec hok => ?_⟩
  · rw [State.colourOf, State.capYellow, hyellow]
    rfl
  · rw [State.colourOf, State.capYellow, State.capRed, hyellow, hred]
    rfl
  obtain ⟨haccepted, rfl⟩ := exec_setPixel_answered_ok hexec hok
  have hself : (ended (pixelWritten x.toNat y.toNat c s) Code.ok 0).pixelCode x.toNat y.toNat = codeOf c := by
    rw [pixelCode_ended, pixelCode_pixelWritten _ c s haccepted.column haccepted.column, if_pos rfl]
  refine ⟨hself, fun hflags => ?_, fun x' y' hx' hne => ?_⟩
  · rw [State.pixelColour, hself]
    exact colourOf_codeOf haccepted.enabled hflags
  · rw [pixelCode_ended, pixelCode_pixelWritten y' c s haccepted.column hx', if_neg hne]

/-! ### Setting a pixel again (40_pixel_codec R135) -/

/-- A pixel write leaves the same bytes whatever was written to the pixel just before. -/
theorem readByte_pixelWritten_pixelWritten (x y : Nat) (c d : Colour) (s : State) (a : Nat) :
    (pixelWritten x y c (pixelWritten x y d s)).readByte a = (pixelWritten x y c s).readByte a := by
  simp only [readByte_pixelWritten, pixelWritten_fsWidth]
  split
  · rw [setField_setField]
  · rfl

/-- The same, whether the SET_PIXEL before was accepted or failed. -/
theorem readByte_pixelWritten_setPixel (x y : Nat) (c d : Colour) (s : State) (a : Nat) :
    (pixelWritten x y c (setPixel x y d s).2).readByte a = (pixelWritten x y c s).readByte a := by
  obtain ⟨hfailed, _⟩ | haccepted := setPixel_failed_or_accepted x y d s
  · rw [hfailed]
  · rw [setPixel_accepted haccepted]
    exact readByte_pixelWritten_pixelWritten x y c d s a

theorem readByte_pixelWritten_ended (x y : Nat) (c : Colour) (s : State) (code : Code) (data : DataWord) (a : Nat) :
    (pixelWritten x y c (ended s code data)).readByte a = (pixelWritten x y c s).readByte a := rfl

/-- Settles O24: the last write of `c` forgets the two before it, so it leaves what the first one left. -/
theorem setPixelIsIdempotent : Obligations.SetPixelIsIdempotent := by
  intro s t u v x y c d hst hok htu huv
  obtain ⟨haccepted, rfl⟩ := exec_setPixel_answered_ok hst hok
  rw [exec_setPixel] at htu
  cases htu
  have hagain := ((haccepted.pixelWritten x.toNat y.toNat c).ended Code.ok 0).setPixel x.toNat y.toNat d
  rw [exec_setPixel_accepted (hagain.ended _ 0)] at huv
  cases huv
  refine ⟨rfl, fun a => ?_⟩
  rw [readByte_ended, readByte_ended, readByte_pixelWritten_ended, readByte_pixelWritten_setPixel,
    readByte_pixelWritten_ended, readByte_pixelWritten_pixelWritten]

end Sys2Proof.Machine
end

section
/-! PROOFS. What every step keeps (10_state R24, R33; 41_frame_store R150; 44_panel_sequencer R231). -/

namespace Sys2Proof.Machine

open Sys2Proof.Claims

/-! ### The part of the invariant about the Frame Store -/

/-- The part of the invariant that speaks of the buffer and of the Frame Store flags (41_frame_store R150). -/
structure StoreOk (s : State) : Prop where
  canonical : s.buf.wf = true
  external : s.fsExternal = true → s.fsValid = true

theorem Invariant.storeOk {s : State} (h : Invariant s) : StoreOk s := by
  obtain ⟨hwf, hexternal, _, _⟩ := h
  exact ⟨hwf, hexternal⟩

/-- Between operations the invariant asks nothing more. -/
theorem idle_invariant {s : State} (h : StoreOk s) (hseq : s.seq = Seq.idle) (hw : s.waiting = false) : Invariant s :=
  ⟨h.canonical, h.external, by simp [State.positionOk, hseq, hw], by simp [State.pstateOk, hseq]⟩

/-- The end of an operation leaves the core idle (45_session_and_host_port R270). -/
theorem finish_invariant {s : State} (h : StoreOk s) (code : Code) (d : DataWord) : Invariant (s.finish code d) :=
  idle_invariant ⟨h.canonical, h.external⟩ rfl rfl

/-- So does its abort (60_exceptions R311). -/
theorem abort_invariant {s : State} (h : StoreOk s) (code : Code) : Invariant (s.abort code) :=
  idle_invariant ⟨h.canonical, h.external⟩ rfl rfl

theorem begin_storeOk {s : State} (h : StoreOk s) (op : BitVec 4) : StoreOk (s.begin op) := ⟨h.canonical, h.external⟩

theorem accept_storeOk {s : State} (h : StoreOk s) (w : RequestWord) (rest : List RequestWord) :
    StoreOk (s.accept w rest) := ⟨h.canonical, h.external⟩

/-! ### Entering a phase -/

/-- A phase with entries has a first call. -/
theorem phaseCalls_length_pos {s : State} (h : phaseItems s ≠ []) : 0 < (phaseCalls s).length := by
  unfold phaseCalls
  cases hp : s.seq.phase
  case idle | localFill | localPixels => simp [phaseItems, hp] at h
  case localPins => simp [phaseItems, hp, setupItems, Item.calls]
  case reset => simp [phaseItems, hp, resetItems, Item.calls]
  case init =>
    simp [phaseItems, hp, initItems, Item.calls, PanelCmd.calls, PanelCmd.wire?, wireAnalogBlock, wireFixed, Wire.calls]
  case window =>
    simp [phaseItems, hp, windowItems, Item.calls, PanelCmd.calls, PanelCmd.wire?, wireRamXRange, Wire.calls]
  case rows => simp [phaseItems, hp, rowItems, Item.calls, PanelCmd.calls, PanelCmd.wire?, wireRamXPtr, Wire.calls]
  case trigger => simp [phaseItems, hp, triggerItems, Item.calls]
  case sleep => simp [phaseItems, hp, sleepItems, Item.calls, PanelCmd.calls, PanelCmd.wire?, wireDeepSleep, Wire.calls]

/-- The preconditions of UPDATE include a height of at least 1 (44_panel_sequencer R232). -/
theorem height_pos_of_ready {s : State} (h : s.ready = true) : 0 < s.fsHeight.toNat := by
  simp only [State.ready, State.dimensionsInRange, Bool.and_eq_true, decide_eq_true_eq] at h
  obtain ⟨_, _, hheight⟩ := h
  exact hheight

/-- SETUP stands at its first call (45_session_and_host_port R274). -/
theorem enter_localPins_invariant {s : State} (h : StoreOk s) (hop : s.latch.op = 0x1) :
    Invariant (s.enter .localPins) := by
  have hk : 0 < (phaseCalls (s.enter .localPins)).length := phaseCalls_length_pos (by simp [phaseItems, setupItems])
  exact ⟨h.canonical, h.external, by simp [State.positionOk, hop, hk], rfl⟩

/-- SETUP and ALLOCATE come to a zero fill without a Frame Store and with a profile (41_frame_store R151). -/
theorem enter_localFill_invariant {s : State} (h : StoreOk s) (hw : s.waiting = false) (hvalid : s.fsValid = false)
    (hprofile : (profile s.product).isSome = true) (hop : s.latch.op = 0x1 ∨ s.latch.op = 0x3) :
    Invariant (s.enter .localFill) := by
  refine ⟨h.canonical, h.external, ?_, rfl⟩
  obtain hop | hop := hop <;> simp [State.positionOk, hw, hvalid, hprofile, hop]

/-- CLEAR comes to its pixel loop with a Frame Store (44_panel_sequencer R260). -/
theorem enter_localPixels_invariant {s : State} (h : StoreOk s) (hw : s.waiting = false) (hvalid : s.fsValid = true)
    (hop : s.latch.op = 0x8) : Invariant (s.enter .localPixels) :=
  ⟨h.canonical, h.external, by simp [State.positionOk, hw, hvalid, hop], rfl⟩

/-- SETUP, and an update with its preconditions met, enter the Reset phase, which makes PSTATE INDETERMINATE
(44_panel_sequencer R233). -/
theorem enterReset_invariant {s : State} (h : StoreOk s) (hop : s.latch.op = 0x1 ∨ s.ready = true) :
    Invariant s.enterReset := by
  have hk : 0 < (phaseCalls s.enterReset).length := phaseCalls_length_pos (by simp [phaseItems, resetItems])
  have hready : s.enterReset.ready = s.ready := rfl
  refine ⟨h.canonical, h.external, ?_, by simp [State.pstateOk]⟩
  obtain hop | hop := hop <;> simp [State.positionOk, hk, hready, hop]

/-- A row below the height is entered by an update with its preconditions met and the panel awake
(44_panel_sequencer R246). -/
theorem enter_row_invariant {s : State} (h : StoreOk s) (hready : s.ready = true) (hawake : s.pstate = .awake)
    {row : Half} (hrow : row.toNat < s.fsHeight.toNat) : Invariant { s with seq := ⟨.rows, row, 0⟩ } := by
  have hk : 0 < (phaseCalls { s with seq := ⟨.rows, row, 0⟩ }).length :=
    phaseCalls_length_pos (by simp [phaseItems, rowItems])
  have hready : { s with seq := ⟨.rows, row, 0⟩ }.ready = true := hready
  exact ⟨h.canonical, h.external, by simp [State.positionOk, hk, hready, hrow], by simp [State.pstateOk, hawake]⟩

/-- So is a phase behind the Reset phase (44_panel_sequencer R230). -/
theorem enter_updatePhase_invariant {s : State} (h : StoreOk s) (hready : s.ready = true) (hawake : s.pstate = .awake)
    {ph : Phase} (hside : ph.panelSide = true) (hreset : ph ≠ .reset) : Invariant (s.enter ph) := by
  have hentered : (s.enter ph).ready = true := hready
  have hcalls := phaseCalls_length_pos (s := s.enter ph)
  cases ph
  case idle | localPins | localFill | localPixels => cases hside
  case reset => exact absurd rfl hreset
  case rows => exact enter_row_invariant h hready hawake (row := 0) (height_pos_of_ready hready)
  all_goals
    have hk := hcalls (by simp [phaseItems, initItems, windowItems, triggerItems, sleepItems])
    exact ⟨h.canonical, h.external, by simp [State.positionOk, hentered, hk], by simp [State.pstateOk, hawake]⟩

/-! ### The preconditions of UPDATE and the local work -/

theorem checkUpdate_invariant {s t : State} (h : StoreOk s) (ht : checkUpdate s = .next t) : Invariant t := by
  obtain ⟨code, h'⟩ | h' | ⟨hready, h'⟩ := checkUpdate_cases s <;> rw [h'] at ht <;> cases ht
  · exact finish_invariant h code 0
  · exact enterReset_invariant h (.inr hready)

/-- A zero fill of a profile's image keeps to the buffer RAM (41_frame_store R151, R157). -/
theorem fillStore_storeOk {s : State} (h : StoreOk s) {width height : Nat}
    (hp : profile s.product = some (width, height)) : StoreOk (fillStore width height s) := by
  have hfits : bytesNeeded width height ≤ Config.fsCapacity := by
    obtain ⟨_, rfl, rfl⟩ | ⟨_, rfl, rfl⟩ := profile_cases hp <;> decide
  exact ⟨Memory.wf_zeroFill h.canonical hfits, fun _ => rfl⟩

theorem fillStep_invariant {s t : State} (h : StoreOk s) (ht : fillStep s = .next t) : Invariant t := by
  unfold fillStep at ht
  split at ht
  · cases ht
  · rename_i width height hp
    split at ht <;> cases ht
    · exact enterReset_invariant (fillStore_storeOk h hp) (.inl ‹_›)
    · exact finish_invariant (fillStore_storeOk h hp) Code.ok 0

/-- A pixel is written below FS_BYTELEN, so inside the buffer RAM (40_pixel_codec R137). -/
theorem setPixel_storeOk {s : State} (h : StoreOk s) (x y : Nat) (c : Colour) : StoreOk (setPixel x y c s).2 := by
  obtain ⟨hfailed, _⟩ | haccepted := setPixel_failed_or_accepted x y c s
  · rwa [hfailed]
  · have hinside : byteOf s.fsWidth.toNat x y < Config.fsCapacity :=
      Nat.lt_of_lt_of_le haccepted.stored (Nat.le_of_lt_succ s.fsBytelen.isLt)
    rw [setPixel_accepted haccepted]
    exact ⟨Memory.wf_write _ h.canonical hinside, h.external⟩

theorem setPixels_storeOk {s : State} (h : StoreOk s) (c : Colour) (l : List (Nat × Nat)) :
    StoreOk (setPixels c l s).2 := by
  induction l generalizing s with
  | nil => exact h
  | cons p l ih =>
    obtain ⟨x, y⟩ := p
    have hpixel := setPixel_storeOk h x y c
    unfold setPixels
    split
    rename_i code t heq
    rw [heq] at hpixel
    split
    · exact ih hpixel
    · exact hpixel

theorem pixelStep_invariant {s t : State} (h : StoreOk s) (ht : pixelStep s = .next t) : Invariant t := by
  have hloop := setPixels_storeOk h .white (pixelList s.fsWidth.toNat s.fsHeight.toNat)
  unfold pixelStep at ht
  split at ht
  rename_i code u heq
  rw [heq] at hloop
  split at ht
  · exact checkUpdate_invariant hloop ht
  · cases ht
    exact abort_invariant hloop code

/-! ### The acceptance of a request -/

theorem setCsr_storeOk {s : State} (h : StoreOk s) (reg : RegAddr) (v : DataWord) : StoreOk (s.setCsr reg v) := by
  have hbuf : (s.setCsr reg v).buf = s.buf := by
    simp only [State.setCsr, apply_ite State.buf, ite_self]
  have hexternal : (s.setCsr reg v).fsExternal = s.fsExternal := by
    simp only [State.setCsr, apply_ite State.fsExternal, ite_self]
  have hvalid : (s.setCsr reg v).fsValid = s.fsValid := by
    simp only [State.setCsr, apply_ite State.fsValid, ite_self]
  constructor
  · rw [hbuf]
    exact h.canonical
  · rw [hexternal, hvalid]
    exact h.external

/-- The buffer that a release leaves is unspecified, and it clears both flags (41_frame_store R155, R156). -/
theorem release_storeOk {s : State} (h : StoreOk s) : StoreOk (release s) := by
  unfold release
  split
  · exact ⟨Memory.wf_forget _, fun hexternal => nomatch hexternal⟩
  · exact h

/-- The checks of ALLOCATE end it, or lead to its zero fill (41_frame_store R151, R152). -/
theorem startAllocate_cases (s : State) :
    (s.fsValid = true ∧ startAllocate s = .next (s.finish Code.ok 0)) ∨
    (s.fsValid = false ∧ profile s.product = none ∧ startAllocate s = .next (s.finish Code.notAvailable 0)) ∨
    (s.fsValid = false ∧ (profile s.product).isSome = true ∧
      startAllocate s = .next ((s.begin 0x3).enter .localFill)) := by
  unfold startAllocate startAllocateIn
  rw [← allocation]
  obtain ⟨hvalid, h⟩ | ⟨hvalid, hp, h⟩ | ⟨hvalid, w, height, hp, _, h⟩ := allocation_cases s <;> rw [h]
  · exact .inl ⟨hvalid, rfl⟩
  · exact .inr (.inl ⟨hvalid, hp, rfl⟩)
  · exact .inr (.inr ⟨hvalid, by simp [hp], rfl⟩)

/-- The first core step of an operation of more than one ends it, or enters a phase as the invariant asks. -/
theorem firstStep?_invariant {i : Instr} {s t : State} (h : StoreOk s) (ht : firstStep? i s = some (.next t)) :
    Invariant t := by
  cases i <;> simp only [firstStep?, reduceCtorEq, Option.some.injEq] at ht
  case setup =>
    cases ht
    exact enter_localPins_invariant (begin_storeOk h 1) rfl
  case allocate =>
    obtain ⟨_, hs⟩ | ⟨_, _, hs⟩ | ⟨hvalid, hprofile, hs⟩ := startAllocate_cases s <;> rw [hs] at ht <;> cases ht
    · exact finish_invariant h Code.ok 0
    · exact finish_invariant h Code.notAvailable 0
    · exact enter_localFill_invariant (begin_storeOk h 3) rfl hvalid hprofile (.inr rfl)
  case update => exact checkUpdate_invariant (begin_storeOk h 6) ht
  case updateByMode mode =>
    unfold startUpdateByMode at ht
    split at ht
    · exact checkUpdate_invariant (begin_storeOk h 7) ht
    · cases ht
      exact finish_invariant h Code.notAvailable 0
  case clear =>
    unfold startClear at ht
    split at ht <;> cases ht
    · exact finish_invariant h Code.notConfigured 0
    · rename_i hvalid
      exact enter_localPixels_invariant (begin_storeOk h 8) rfl (by simpa using hvalid) rfl

/-- A host operation of one internal state change ends at once, with the buffer and the flags as the invariant asks. -/
theorem exec_invariant {i : Instr} {s t : State} (h : StoreOk s) (hhost : i.panelCmd? = none)
    (hshort : firstStep? i s = none) (ht : exec i s = .next t) : Invariant t := by
  cases i <;> cases hhost <;> cases hshort
  case teardown =>
    cases ht
    have hreleased := release_storeOk h
    exact finish_invariant (s := { release s with activeValid := false })
      ⟨hreleased.canonical, hreleased.external⟩ Code.ok 0
  case fsAttach =>
    change execFsAttach s = _ at ht
    unfold execFsAttach at ht
    split at ht
    · cases ht
      exact finish_invariant h _ 0
    · split at ht <;> cases ht
      · exact finish_invariant h _ 0
      · exact finish_invariant (s := { s with fsValid := true, fsExternal := true })
          ⟨h.canonical, fun _ => rfl⟩ Code.ok 0
  case setPixel x y c =>
    rw [exec_setPixel] at ht
    cases ht
    exact finish_invariant (setPixel_storeOk h x.toNat y.toNat c) _ 0
  case csrRead reg =>
    change execCsrRead reg s = _ at ht
    unfold execCsrRead at ht
    split at ht <;> cases ht <;> exact finish_invariant h _ _
  case csrWrite reg v =>
    change execCsrWrite reg v s = _ at ht
    unfold execCsrWrite at ht
    split at ht
    · cases ht
      exact finish_invariant h _ 0
    · split at ht
      · cases ht
        exact finish_invariant h _ 0
      · split at ht <;> cases ht
        · exact finish_invariant h _ 0
        · exact finish_invariant (setCsr_storeOk h reg v) Code.ok 0
  case fsRd a =>
    change execFsRd a s = _ at ht
    unfold execFsRd at ht
    split at ht <;> cases ht <;> exact finish_invariant h _ _
  case fsWr a b =>
    change execFsWr a b s = _ at ht
    unfold execFsWr at ht
    split at ht
    · cases ht
      exact finish_invariant h _ 0
    · split at ht <;> cases ht
      · exact finish_invariant h _ 0
      · rename_i hinside
        exact finish_invariant (s := { s with buf := s.buf.write a.toNat b })
          ⟨Memory.wf_write b h.canonical (by omega), h.external⟩ Code.ok 0
  case reserved0 | reservedD | reservedE | reservedF =>
    cases ht
    exact finish_invariant h Code.notAvailable 0

/-- Between operations a step accepts a request, or leaves the core as it is (45_session_and_host_port R270, R271). -/
theorem step_idle_invariant {s t : State} (h : Invariant s) (hidle : s.seq.phase = .idle) (ht : step s = .next t) :
    Invariant t := by
  unfold step at ht
  rw [if_pos hidle] at ht
  split at ht
  · cases ht
    exact h
  · rename_i w rest _
    have haccept := accept_storeOk h.storeOk w rest
    unfold startRequest at ht
    split at ht
    · rename_i hfirst
      exact firstStep?_invariant haccept (hfirst.trans (congrArg some ht))
    · rename_i hshort
      exact exec_invariant haccept (decodeRequest_panelCmd? w) hshort ht

/-! ### What the invariant says of a position -/

/-- SETUP's pin configuration is SETUP's (45_session_and_host_port R274). -/
theorem latch_of_positionOk {s : State} (h : s.positionOk = true) (hp : s.seq.phase = .localPins) :
    s.latch.op = 0x1 := by
  simp only [State.positionOk, hp, Bool.and_eq_true, decide_eq_true_eq] at h
  obtain ⟨_, hop⟩ := h
  exact hop

/-- The Reset phase is SETUP's, or that of an update with its preconditions met (44_panel_sequencer R231). -/
theorem latch_or_ready_of_positionOk {s : State} (h : s.positionOk = true) (hp : s.seq.phase = .reset) :
    s.latch.op = 0x1 ∨ s.ready = true := by
  simp only [State.positionOk, hp, Bool.and_eq_true, Bool.or_eq_true, decide_eq_true_eq] at h
  obtain ⟨_, hop⟩ := h
  exact hop

/-- Behind the Reset phase an update has its preconditions met (44_panel_sequencer R231). -/
theorem ready_of_positionOk {s : State} (h : s.positionOk = true) (hside : s.seq.phase.panelSide = true)
    (hreset : s.seq.phase ≠ .reset) : s.ready = true := by
  unfold State.positionOk at h
  cases hp : s.seq.phase <;> simp only [hp, Bool.and_eq_true] at h hside
  case idle | localPins | localFill | localPixels => cases hside
  case reset => exact absurd hp hreset
  all_goals
    obtain ⟨_, hready⟩ := h
    exact hready

/-- Behind the Reset phase the panel is awake (10_state R33). -/
theorem awake_of_pstateOk {s : State} (h : s.pstateOk = true) (hside : s.seq.phase.panelSide = true)
    (hreset : s.seq.phase ≠ .reset) : s.pstate = .awake := by
  unfold State.pstateOk at h
  cases hp : s.seq.phase <;> simp only [hp, decide_eq_true_eq] at h hside
  case idle | localPins | localFill | localPixels => cases hside
  case reset => exact absurd hp hreset
  all_goals exact h

/-- The core waits only in a phase of calls (60_exceptions R307). -/
theorem phaseItems_of_waiting {s : State} (h : s.positionOk = true) (hw : s.waiting = true) : phaseItems s ≠ [] := by
  unfold State.positionOk at h
  cases hp : s.seq.phase <;> simp [hp, hw] at h
  all_goals simp [phaseItems, hp, setupItems, resetItems, initItems, windowItems, rowItems, triggerItems, sleepItems]

/-! ### A call and its answer -/

/-- `s` at call `k` of its phase or row, with another wait, trace and other answers: what a call or an answer leaves
before the position moves on (10_state R24, 60_exceptions R306). -/
def State.atCall (s : State) (k : Nat) (waiting : Bool) (trace : List Event) (answers : List Code) : State :=
  { s with seq := { s.seq with k := k }, waiting := waiting, trace := trace, answers := answers }

@[simp] theorem PanelCmd.calls_atCall (c : PanelCmd) (s : State) (k : Nat) (w : Bool) (tr : List Event)
    (l : List Code) : PanelCmd.calls c (s.atCall k w tr l) = PanelCmd.calls c s := by
  cases c <;> rfl

@[simp] theorem phaseCalls_atCall (s : State) (k : Nat) (w : Bool) (tr : List Event) (l : List Code) :
    phaseCalls (s.atCall k w tr l) = phaseCalls s := by
  have hcalls : ∀ it : Item, it.calls (s.atCall k w tr l) = it.calls s := by
    rintro (c | c)
    · rfl
    · exact PanelCmd.calls_atCall c s k w tr l
  have hitems : phaseItems (s.atCall k w tr l) = phaseItems s := rfl
  simp only [phaseCalls, hcalls, hitems]

theorem atCall_storeOk {s : State} (h : StoreOk s) (k : Nat) (w : Bool) (tr : List Event) (l : List Code) :
    StoreOk (s.atCall k w tr l) := ⟨h.canonical, h.external⟩

/-- The invariant holds at each call of a phase or row if at one. -/
theorem atCall_invariant {s : State} (h : Invariant s) (hitems : phaseItems s ≠ []) {k : Nat}
    (hk : k < (phaseCalls s).length) (w : Bool) (tr : List Event) (l : List Code) : Invariant (s.atCall k w tr l) := by
  obtain ⟨hwf, hexternal, hposition, hpstate⟩ := h
  obtain ⟨hidle, hfill, hpixels⟩ := phase_of_phaseItems hitems
  refine ⟨hwf, hexternal, ?_, hpstate⟩
  have hready : (s.atCall k w tr l).ready = s.ready := rfl
  unfold State.positionOk at hposition ⊢
  rw [phaseCalls_atCall, hready]
  simp only [State.atCall]
  cases hp : s.seq.phase <;> simp only [hp, Bool.and_eq_true] at hposition ⊢
  case idle => exact absurd hp hidle
  case localFill => exact absurd hp hfill
  case localPixels => exact absurd hp hpixels
  all_goals
    obtain ⟨⟨hrow, _⟩, hphase⟩ := hposition
    exact ⟨⟨hrow, decide_eq_true hk⟩, hphase⟩

/-- The end of a phase or row, all its calls answered, enters the next as the invariant asks, or ends the operation
(10_state R24, 44_panel_sequencer R230). -/
theorem phaseEnd_invariant {s : State} (h : Invariant s) (hitems : phaseItems s ≠ []) (k : Nat) (tr : List Event)
    (l : List Code) : Invariant (phaseEnd (s.atCall k false tr l)) := by
  obtain ⟨hidle, hfill, hpixels⟩ := phase_of_phaseItems hitems
  have hstore := atCall_storeOk h.storeOk k false tr l
  have hawakeStore : StoreOk { s.atCall k false tr l with pstate := .awake } := ⟨hstore.canonical, hstore.external⟩
  obtain ⟨_, _, hposition, hpstate⟩ := h
  have hready : s.seq.phase.panelSide = true → s.seq.phase ≠ .reset → s.ready = true := ready_of_positionOk hposition
  have hawake : s.seq.phase.panelSide = true → s.seq.phase ≠ .reset → s.pstate = .awake := awake_of_pstateOk hpstate
  have hphase : (s.atCall k false tr l).seq.phase = s.seq.phase := rfl
  unfold phaseEnd
  rw [hphase]
  cases hp : s.seq.phase <;> rw [hp] at hready hawake
  case idle => exact absurd hp hidle
  case localFill => exact absurd hp hfill
  case localPixels => exact absurd hp hpixels
  case localPins =>
    have hop := latch_of_positionOk hposition hp
    obtain ⟨_, hs⟩ | ⟨_, _, hs⟩ | ⟨hvalid, w, height, hprofile, _, hs⟩ := allocation_cases (s.atCall k false tr l) <;>
      rw [hs]
    · exact enterReset_invariant hstore (.inl hop)
    · exact abort_invariant hstore _
    · exact enter_localFill_invariant hstore rfl hvalid (by rw [hprofile]; rfl) (.inl hop)
  case reset =>
    dsimp only
    split
    · exact finish_invariant hawakeStore Code.ok 0
    · rename_i hop
      have hready := (latch_or_ready_of_positionOk hposition hp).resolve_left hop
      exact enter_updatePhase_invariant hawakeStore hready rfl rfl (by decide)
  case init | window | trigger =>
    exact enter_updatePhase_invariant hstore (hready rfl (by decide)) (hawake rfl (by decide)) rfl (by decide)
  case rows =>
    have hready := hready rfl (by decide)
    have hawake := hawake rfl (by decide)
    dsimp only
    split
    · rename_i hrow
      refine enter_row_invariant hstore hready hawake ?_
      rwa [BitVec.toNat_add_of_lt (Nat.lt_trans hrow (BitVec.isLt _))]
    · exact enter_updatePhase_invariant hstore hready hawake rfl (by decide)
  case sleep => exact finish_invariant ⟨hstore.canonical, hstore.external⟩ Code.ok 0

/-- The position moves on inside its phase or row, or behind its end. -/
theorem settle_invariant {s : State} (h : Invariant s) (hitems : phaseItems s ≠ []) (k : Nat) (tr : List Event)
    (l : List Code) : Invariant (settle (s.atCall k false tr l)) := by
  obtain ⟨hidle, _, _⟩ := phase_of_phaseItems hitems
  by_cases hk : k < (phaseCalls s).length
  · rw [settle_inside (by rwa [phaseCalls_atCall])]
    exact atCall_invariant h hitems hk false tr l
  · rw [settle_end (s := s.atCall k false tr l) hidle rfl (by rw [phaseCalls_atCall]; exact Nat.le_of_not_lt hk)]
    exact phaseEnd_invariant h hitems k tr l

/-- An answer moves the position on or aborts the operation (60_exceptions R306). -/
theorem answered_invariant {s : State} (h : Invariant s) (hitems : phaseItems s ≠ []) (k : Nat) (tr : List Event)
    (l : List Code) (a : Code) : Invariant (settle (State.answered (s.atCall k false tr l) a).state) := by
  unfold State.answered
  split
  · exact settle_invariant h hitems (k + 1) tr l
  · rw [Progress.state, settle_stopped (.inl rfl)]
    exact abort_invariant (atCall_storeOk h.storeOk k false tr l) a

/-- A call is answered, or the core waits in it (60_exceptions R306, R307). -/
theorem cap_invariant {s : State} (h : Invariant s) (hw : s.waiting = false) (hitems : phaseItems s ≠ [])
    (hk : s.seq.k < (phaseCalls s).length) (c : Call) : Invariant (settle (cap c s).state) := by
  unfold cap
  split
  · rw [Progress.state, settle_stopped (.inr rfl)]
    exact atCall_invariant h hitems hk true _ _
  · rename_i a rest _
    have hcall : { s.emit c with answers := rest } = s.atCall s.seq.k false (s.trace ++ [⟨c, s.ctx⟩]) rest := by
      rw [← hw]
      rfl
    rw [hcall]
    exact answered_invariant h hitems _ _ _ a

theorem resumeCall_invariant {s : State} (h : Invariant s) (hw : s.waiting = true) : Invariant (resumeCall s) := by
  have hitems : phaseItems s ≠ [] := by
    obtain ⟨_, _, hposition, _⟩ := h
    exact phaseItems_of_waiting hposition hw
  unfold resumeCall
  split
  · exact h
  · rename_i a rest _
    exact answered_invariant h hitems s.seq.k s.trace rest a

theorem callStep_invariant {s t : State} (h : Invariant s) (hw : s.waiting = false) (ht : callStep s = .next t) :
    Invariant t := by
  obtain ⟨c, hc, h'⟩ | h' | ⟨_, _, _, _, h'⟩ | ⟨_, h'⟩ := callStep_cases s <;> rw [h'] at ht <;> cases ht
  · obtain ⟨hk, _⟩ := List.getElem?_eq_some_iff.mp hc
    have hitems : phaseItems s ≠ [] := by
      intro hnil
      simp [phaseCalls, hnil] at hk
    exact cap_invariant h hw hitems hk c
  · exact abort_invariant h.storeOk _

theorem sequencerStep_invariant {s t : State} (h : Invariant s) (ht : sequencerStep s = .next t) : Invariant t := by
  cases hw : s.waiting with
  | true =>
    rw [sequencerStep_waiting hw] at ht
    cases ht
    exact resumeCall_invariant h hw
  | false =>
    by_cases hfill : s.seq.phase = .localFill
    · rw [sequencerStep_fill hw hfill] at ht
      exact fillStep_invariant h.storeOk ht
    · by_cases hpixels : s.seq.phase = .localPixels
      · rw [sequencerStep_pixels hw hpixels] at ht
        exact pixelStep_invariant h.storeOk ht
      · rw [sequencerStep_callStep hw hfill hpixels] at ht
        exact callStep_invariant h hw ht

/-- Settles O55: by the kind of step, the acceptance of a request, an answer, local work, or a call. -/
theorem stepKeepsTheInvariant : Obligations.StepKeepsTheInvariant := by
  intro s t h ht
  by_cases hidle : s.seq.phase = .idle
  · exact step_idle_invariant h hidle ht
  · rw [step_busy hidle] at ht
    exact sequencerStep_invariant h ht

end Sys2Proof.Machine
end

section
/-! PROOFS. The Frame Store lifecycle: ALLOCATE, FS_ATTACH and TEARDOWN (41_frame_store). -/

namespace Sys2Proof.Machine

open Sys2Proof.Claims

/-! ### ALLOCATE -/

theorem startAllocate_present {s : State} (hvalid : s.fsValid = true) :
    startAllocate s = .next (s.finish Code.ok 0) := by
  obtain ⟨_, h⟩ | ⟨hnone, _⟩ | ⟨hnone, _⟩ := startAllocate_cases s
  · exact h
  all_goals simp [hvalid] at hnone

theorem startAllocate_noProfile {s : State} (hvalid : s.fsValid = false) (hp : profile s.product = none) :
    startAllocate s = .next (s.finish Code.notAvailable 0) := by
  obtain ⟨hpresent, _⟩ | ⟨_, _, h⟩ | ⟨_, hprofile, _⟩ := startAllocate_cases s
  · simp [hvalid] at hpresent
  · exact h
  · simp [hp] at hprofile

theorem startAllocate_profile {s : State} (hvalid : s.fsValid = false) (hprofile : (profile s.product).isSome = true) :
    startAllocate s = .next ((s.begin 0x3).enter .localFill) := by
  obtain ⟨hpresent, _⟩ | ⟨_, hp, _⟩ | ⟨_, _, h⟩ := startAllocate_cases s
  · simp [hvalid] at hpresent
  · simp [hp] at hprofile
  · exact h

/-- A buffer RAM that is smaller than the profile's image is OutOfMemory (41_frame_store R157). -/
theorem startAllocateIn_small {s : State} {capacity w h : Nat} (hvalid : s.fsValid = false)
    (hp : profile s.product = some (w, h)) (hsmall : capacity < bytesNeeded w h) :
    startAllocateIn capacity s = .next (s.finish Code.outOfMemory 0) := by
  simp [startAllocateIn, allocationIn, hvalid, hp, hsmall]

/-- An operation that its first step has ended is the whole of it. -/
theorem runOutcome_finish (s : State) (code : Code) (d : DataWord) :
    runOutcome (.next (s.finish code d)) = .next (s.finish code d) :=
  runSequencer_done _ _ (.inl rfl)

/-- So is an operation that its second step ends. -/
theorem runOutcome_step {s t : State} (hbusy : s.seq.phase ≠ .idle) (hw : s.waiting = false)
    (hstep : sequencerStep s = .next t) (hidle : t.seq.phase = .idle) : runOutcome (.next s) = .next t := by
  obtain ⟨fuel, hfuel⟩ : ∃ fuel, s.opFuel = fuel + 1 := ⟨127 + 24 * s.fsHeight.toNat, by unfold State.opFuel; omega⟩
  rw [runOutcome, hfuel, runSequencer_step fuel hbusy hw hstep, runSequencer_done fuel t (.inl hidle)]

/-- The zero fill in ALLOCATE, whose op code is not SETUP's, ends the operation (41_frame_store R151). -/
theorem fillStep_allocate {s : State} {w h : Nat} (hp : profile s.product = some (w, h)) (hop : s.latch.op ≠ 0x1) :
    fillStep s = .next ((fillStore w h s).finish Code.ok 0) := by
  unfold fillStep
  rw [hp]
  exact if_neg hop

/-- ALLOCATE without a Frame Store is the zero fill of the profile's image, with its op code in the latch
(41_frame_store R151; entry 10). -/
theorem exec_allocate_profile {s : State} {w h : Nat} (hvalid : s.fsValid = false)
    (hp : profile s.product = some (w, h)) :
    exec .allocate s = .next (ended (latched (fillStore w h s) 3) Code.ok 0) := by
  have hstep : sequencerStep ((s.begin 0x3).enter .localFill) =
      .next ((fillStore w h ((s.begin 0x3).enter .localFill)).finish Code.ok 0) :=
    (sequencerStep_fill rfl rfl).trans (fillStep_allocate (s := (s.begin 0x3).enter .localFill) hp (by simp))
  change runOutcome (startAllocate s) = _
  rw [startAllocate_profile hvalid (by rw [hp]; rfl), runOutcome_step (by simp) rfl hstep rfl]
  rfl

/-- Every byte of the image is zero, every other one as before (41_frame_store R151). -/
theorem readByte_fillStore (w h : Nat) (s : State) (a : Nat) :
    (fillStore w h s).readByte a = if a < bytesNeeded w h then 0 else s.readByte a :=
  Memory.read_zeroFill s.buf _ a

/-- Every pixel of the image is white (41_frame_store R151, 40_pixel_codec R138). -/
theorem pixelCode_fillStore {w h x y : Nat} (s : State) (hw : w < 2 ^ 16) (hx : x < w) (hy : y < h) :
    (fillStore w h s).pixelCode x y = 0 := by
  have hwidth : (fillStore w h s).fsWidth.toNat = w := by
    rw [fillStore_fsWidth, BitVec.toNat_ofNat, Nat.mod_eq_of_lt hw]
  rw [State.pixelCode, hwidth, readByte_fillStore, if_pos (byteOf_lt hx hy)]
  simp [field]

/-- Settles O18: the zero fill of the profile's image, or the code that the checks answer. -/
theorem allocateMakesAWhiteStore : Obligations.AllocateMakesAWhiteStore := by
  intro s
  refine ⟨fun hvalid w h n hproduct => ?_, fun hvalid hproduct => ?_, fun hvalid => ?_,
    fun hvalid hproduct capacity hcapacity => ?_⟩
  · obtain ⟨hp, rfl, hw⟩ : profile s.product = some (w, h) ∧ n = bytesNeeded w h ∧ w < 2 ^ 16 := by
      obtain ⟨hproduct, rfl, rfl, rfl⟩ | ⟨hproduct, rfl, rfl, rfl⟩ := hproduct <;> rw [hproduct] <;> decide
    exact ⟨_, exec_allocate_profile hvalid hp, rfl, fun a ha => (readByte_fillStore w h s a).trans (if_pos ha),
      fun a ha => (readByte_fillStore w h s a).trans (if_neg (Nat.not_lt.mpr ha)),
      fun x y hx hy => pixelCode_fillStore s hw hx hy⟩
  · have hp : profile s.product = none := by
      obtain hproduct | hproduct := hproduct <;> rw [hproduct] <;> rfl
    exact (congrArg runOutcome (startAllocate_noProfile hvalid hp)).trans (runOutcome_finish s _ 0)
  · exact (congrArg runOutcome (startAllocate_present hvalid)).trans (runOutcome_finish s _ 0)
  · have hp : profile s.product = some (400, 300) := by
      rw [hproduct]
      rfl
    exact startAllocateIn_small hvalid hp hcapacity

/-! ### FS_ATTACH -/

/-- Settles O19: a byte length is 16 bits wide, so it fits a buffer RAM of 65535 bytes. -/
theorem fsAttachTakesTheBuffer : Obligations.FsAttachTakesTheBuffer := by
  intro s
  have hfits : ¬ Config.fsCapacity < s.fsBytelen.toNat := Nat.not_lt.mpr (Nat.le_of_lt_succ s.fsBytelen.isLt)
  refine ⟨fun hvalid => ?_, fun hvalid => ?_⟩ <;> change execFsAttach s = _ <;> unfold execFsAttach
  · rw [if_neg (by simp [hvalid]), if_neg hfits]
    rfl
  · rw [if_pos hvalid]
    rfl

/-! ### TEARDOWN -/

theorem release_present {s : State} (hvalid : s.fsValid = true) :
    release s = { s with fsValid := false, fsExternal := false, buf := s.buf.forget } := if_pos hvalid

theorem release_absent {s : State} (hvalid : s.fsValid = false) : release s = s := if_neg (by simp [hvalid])

/-- TEARDOWN ends at once, with the Frame Store released and the active slot empty. -/
theorem exec_teardown (s : State) :
    exec .teardown s = .next (ended { release s with activeValid := false } Code.ok 0) := rfl

/-- Settles O20: by whether there is a Frame Store to release. -/
theorem teardownReleases : Obligations.TeardownReleases := by
  refine fun s => ⟨fun hvalid => ⟨_, exec_teardown s, ?_, fun a => ?_⟩, fun hvalid => ?_⟩
  · rw [release_present hvalid]
    rfl
  · rw [release_present hvalid]
    exact Memory.read_forget s.buf a
  · rw [exec_teardown, release_absent hvalid]
    rfl

end Sys2Proof.Machine
end

section
/-! PROOFS. A send of a panel command that is not carried out whole (42_protocol_framer R173). -/

namespace Sys2Proof.Machine

open Sys2Proof.Claims

/-- The dimensions for which a panel command has a payload, as the statements write them (44_panel_sequencer R232,
42_protocol_framer R175). -/
theorem PanelCmd.admitted_iff_dimensions (c : PanelCmd) (s : State) :
    PanelCmd.admitted c s ↔
      (c = .ramXRange ∨ c = .writeBw → 8 ≤ s.fsWidth.toNat) ∧ (c = .ramYRange → 1 ≤ s.fsHeight.toNat) := by
  cases c
  case ramXRange | writeBw => simpa [PanelCmd.admitted] using w8_pos_iff s
  case ramYRange => simp [PanelCmd.admitted, Nat.one_le_iff_ne_zero, Nat.pos_iff_ne_zero]
  all_goals simp [PanelCmd.admitted]

/-- A panel command whose calls stop ends where they stop: nothing follows the send (42_protocol_framer R173). -/
theorem exec_panel_of_stop {c : PanelCmd} {s t : State} (h : PanelCmd.admitted c s)
    (hstop : runCalls (PanelCmd.calls c s) s = .stop t) : exec c.instr s = .next t := by
  rw [exec_panel_eq c s h, hstop]

/-- The abort at the first call that is not answered OK, as the statements write it: the calls before it were answered
in the same phase, so they do not change what becomes of PSTATE (60_exceptions R311, R312). -/
theorem abort_afterCalls_eq_afterRun (s : State) (done : List Call) (call : Call) (a : Code) (rest : List Code) :
    ({ (s.afterCalls done (a :: rest)).emit call with answers := rest }).abort a =
      afterRun s (done ++ [call]) rest (pstateAfterAbort s) a := by
  rw [abort_eq_ended]
  simp [State.afterCalls, State.emit, afterRun, ended, pstateAfterAbort]

/-- Settles O37: the script of the send stops at the call, and the abort there is the end of the command. -/
theorem sendsFailFast : Obligations.SendsFailFast := by
  intro c s done call after a rest hwidth hheight hcalls ha hanswers
  have hstop := runCalls_fails done call after s a rest hanswers ha
  rw [← hcalls, abort_afterCalls_eq_afterRun] at hstop
  exact exec_panel_of_stop ((PanelCmd.admitted_iff_dimensions c s).mpr ⟨hwidth, hheight⟩) hstop

end Sys2Proof.Machine
end

section
/-! PROOFS. The sends of the register driver carried out whole: each with its calls answered OK, and the two whose payload
depends on the enabled colours (43_register_driver R191 to R209). -/

namespace Sys2Proof.Machine

open Sys2Proof.Claims

/-! ### A panel command whose calls are answered OK -/

/-- The statements' end state of a send is the state after its calls: the trace, the answers and K move, and nothing else
(42_protocol_framer R171, 10_state R24). -/
theorem exec_panel_ok {c : PanelCmd} {s : State} {rest : List Code} (hadm : PanelCmd.admitted c s)
    (hc : c ≠ .deepSleep) (hanswers : s.answers = oks (PanelCmd.calls c s).length rest) :
    exec c.instr s = .next (sent s (PanelCmd.calls c s) rest) := by
  rw [exec_panel_eq c s hadm, runCalls_ok _ s rest hanswers]
  simp only [if_neg hc]
  rfl

/-- A command with a payload makes the four calls of form WP. -/
theorem exec_panel_wp {c : PanelCmd} {s : State} {cmd : Byte} {data : List Byte} {rest : List Code}
    (hanswers : s.answers = oks 4 rest) (hwire : PanelCmd.wire? c s = some (.wp cmd data))
    (hadm : PanelCmd.admitted c s) (hc : c ≠ .deepSleep) : exec c.instr s = .next (sent s (wp cmd data) rest) := by
  have hcalls : PanelCmd.calls c s = wp cmd data := by
    rw [PanelCmd.calls, hwire]
    rfl
  rw [exec_panel_ok hadm hc (by rw [hcalls]; exact hanswers), hcalls]

/-- A command that sends nothing changes nothing (43_register_driver R202, 44_panel_sequencer R249; entry 16). -/
theorem exec_panel_silent {c : PanelCmd} {s : State} (hwire : PanelCmd.wire? c s = none)
    (hadm : PanelCmd.admitted c s) (hc : c ≠ .deepSleep) : exec c.instr s = .next s := by
  rw [exec_panel_eq c s hadm, PanelCmd.calls, hwire]
  simp only [runCalls, if_neg hc]

/-! ### The payloads that depend on the enabled colours -/

theorem sourceOverride?_of_yellow {s : State} (hyellow : s.colorcap.getLsbD 3 = true) :
    s.sourceOverride? = some Config.panel.argSourceOverrideYellow.toList := if_pos hyellow

theorem sourceOverride?_of_not_yellow {s : State} (hyellow : s.colorcap.getLsbD 3 = false) :
    s.sourceOverride? =
      if s.colorcap.getLsbD 2 = true ∧ s.product = 0 then some Config.panel.argSourceOverrideRed.toList else none :=
  (if_neg (ne_true_of_eq_false hyellow)).trans (by simp [State.capRed, State.isWide])

theorem lut_of_yellow {s : State} (hyellow : s.colorcap.getLsbD 3 = true) :
    s.lut = Config.panel.lutYellow.toList := if_pos hyellow

theorem lut_of_not_yellow {s : State} (hyellow : s.colorcap.getLsbD 3 = false) :
    s.lut = if s.colorcap.getLsbD 2 = true then Config.panel.lutRed.toList else Config.panel.lutBw.toList :=
  if_neg (ne_true_of_eq_false hyellow)

/-- P_SOURCE_OVERRIDE is the command of P_SOURCE_VOLTAGE with the override's payload (30_encoding R101). -/
theorem wire?_sourceOverride (s : State) :
    PanelCmd.wire? .sourceOverride s = s.sourceOverride?.map (Wire.wp Config.panel.cmdSourceVoltage) := by
  rw [PanelCmd.wire?, wireSourceOverride?]
  cases s.sourceOverride? <;> rfl

/-! ### The statements -/

/-- Settles O29: each of the eleven sends has a payload in every state. -/
theorem fixedPanelCommandsSend : Obligations.FixedPanelCommandsSend := fun _ _ h =>
  ⟨exec_panel_wp (c := .analogBlock) h rfl trivial nofun, exec_panel_wp (c := .digitalBlock) h rfl trivial nofun,
   exec_panel_wp (c := .gateVoltage) h rfl trivial nofun, exec_panel_wp (c := .sourceVoltage) h rfl trivial nofun,
   exec_panel_wp (c := .dummyLine) h rfl trivial nofun, exec_panel_wp (c := .gateLineWidth) h rfl trivial nofun,
   exec_panel_wp (c := .dataEntryMode) h rfl trivial nofun, exec_panel_wp (c := .vcom) h rfl trivial nofun,
   exec_panel_wp (c := .border1) h rfl trivial nofun, exec_panel_wp (c := .border2) h rfl trivial nofun,
   exec_panel_wp (c := .updateSeq) h rfl trivial nofun⟩

/-- Settles O31: the pairs of the model are the pairs of the statement, the tail of the gate setting is empty, and the
two ranges need the dimension they end at. -/
theorem dimensionSends : Obligations.DimensionSends := by
  intro s rest h
  simp only [← pair_eq_pairOf]
  refine ⟨?_, fun hwidth => ?_, fun hheight => ?_, ?_, ?_⟩
  · exact exec_panel_wp (c := .gateSetting) h rfl trivial nofun
  · exact exec_panel_wp (c := .ramXRange) h rfl ((w8_pos_iff s).mpr hwidth) nofun
  · exact exec_panel_wp (c := .ramYRange) h rfl hheight nofun
  · exact exec_panel_wp (c := .ramXPtr) h rfl trivial nofun
  · exact exec_panel_wp (c := .ramYPtr) h rfl trivial nofun

/-- Settles O33: the wire form of the override is decided by its payload, case by case. -/
theorem sourceOverrideCondition : Obligations.SourceOverrideCondition := by
  intro s rest h
  have hwire := wire?_sourceOverride s
  refine ⟨fun hyellow => ?_, fun hyellow hred hwide => ?_, fun hyellow hnot => ?_⟩
  · rw [sourceOverride?_of_yellow hyellow] at hwire
    exact exec_panel_wp h hwire trivial nofun
  · rw [sourceOverride?_of_not_yellow hyellow, if_pos ⟨hred, hwide⟩] at hwire
    exact exec_panel_wp h hwire trivial nofun
  · have hnone : ¬ (s.colorcap.getLsbD 2 = true ∧ s.product = 0) := fun ⟨hred, hwide⟩ =>
      hnot.elim (fun hoff => ne_true_of_eq_false hoff hred) (fun hnarrow => hnarrow hwide)
    rw [sourceOverride?_of_not_yellow hyellow, if_neg hnone] at hwire
    exact exec_panel_silent hwire trivial nofun

/-- Settles O34: one send of the chosen table, whichever table it is. -/
theorem lutPriority : Obligations.LutPriority := by
  intro s rest h
  have hsend : exec .pSetLut s = .next (sent s (wp Config.panel.cmdSetLut s.lut) rest) :=
    exec_panel_wp (c := .setLut) h rfl trivial nofun
  refine ⟨fun hyellow => ?_, fun hyellow hred => ?_, fun hyellow hred => ?_⟩
  · rw [hsend, lut_of_yellow hyellow]
  · rw [hsend, lut_of_not_yellow hyellow, if_pos hred]
  · rw [hsend, lut_of_not_yellow hyellow, if_neg (ne_true_of_eq_false hred)]

end Sys2Proof.Machine
end

section
/-! PROOFS. The sends of the update sequencer itself: command-only sends, row writes and the Sleep send, and the sends
without a meaning (44_panel_sequencer R235, R248, R249, R253, R256). -/

namespace Sys2Proof.Machine

open Sys2Proof.Claims

/-- Settles O30: form W0 is the two calls of the command alone. -/
theorem commandOnlySends : Obligations.CommandOnlySends := fun _ _ h =>
  ⟨exec_panel_ok (c := .swReset) trivial nofun h, exec_panel_ok (c := .trigger) trivial nofun h⟩

theorem w8_eq_zero_iff (s : State) : s.w8 = 0 ↔ s.fsWidth.toNat < 8 := by
  unfold State.w8
  omega

/-- Settles O32: each of the three commands is refused where its payload would end below 0 or be empty. -/
theorem sendsWithoutAMeaningAreRefused : Obligations.SendsWithoutAMeaningAreRefused := by
  intro s
  simp only [← w8_eq_zero_iff]
  exact ⟨fun hwidth => exec_refusal (c := .ramXRange) (if_pos hwidth),
    fun hheight => exec_refusal (c := .ramYRange) (if_pos hheight),
    fun hwidth => exec_refusal (c := .writeBw) (if_pos hwidth)⟩

/-- A colour row is sent exactly where it has a byte that is not 0 (44_panel_sequencer R250). -/
theorem colorNonzero_iff (s : State) (r : Nat) : s.colorNonzero r = true ↔ ∃ b ∈ s.colorRow r, b ≠ 0 := by
  simp [State.colorNonzero, anyNonzero]

/-- Settles O35: the black and white row has a payload from a width of 8 on, and the bytes of the colour row decide its
wire form. -/
theorem rowWrites : Obligations.RowWrites := by
  intro s rest h
  refine ⟨fun hwidth => ?_, fun hcolor => ?_, fun hblank => ?_⟩
  · exact exec_panel_wp (c := .writeBw) h rfl ((w8_pos_iff s).mpr hwidth) nofun
  · have hwire : PanelCmd.wire? .writeColor s =
        some (.wp Config.panel.cmdWriteColor (s.colorRow s.seq.row.toNat)) :=
      if_pos ((colorNonzero_iff s _).mpr hcolor)
    exact exec_panel_wp h hwire trivial nofun
  · have hzero : ¬ s.colorNonzero s.seq.row.toNat = true := by
      rw [colorNonzero_iff]
      rintro ⟨b, hb, hne⟩
      exact hne (hblank b hb)
    exact exec_panel_silent (c := .writeColor) (if_neg hzero) trivial nofun

/-- Settles O36: the four calls of the Sleep send are one script, and behind it the panel is asleep. -/
theorem deepSleepPutsThePanelToSleep : Obligations.DeepSleepPutsThePanelToSleep := by
  intro s rest h
  change exec PanelCmd.deepSleep.instr s = _
  rw [exec_panel_eq .deepSleep s trivial, runCalls_ok (PanelCmd.calls .deepSleep s) s rest h]
  rfl

end Sys2Proof.Machine
end

section
/-! PROOFS. What stands before the first call of an update and of CLEAR: the preconditions and the admitted dimensions
(44_panel_sequencer R231, R232, R260). -/

namespace Sys2Proof.Machine

open Sys2Proof.Claims

/-! ### The preconditions of UPDATE, a check at a time -/

theorem checkUpdate_noStore {s : State} (hvalid : s.fsValid = false) :
    checkUpdate s = .next (s.finish Code.notConfigured 0) := if_pos hvalid

theorem checkUpdate_short {s : State} (hvalid : s.fsValid = true)
    (hshort : s.fsBytelen.toNat < bytesNeeded s.fsWidth.toNat s.fsHeight.toNat) :
    checkUpdate s = .next (s.finish Code.failure 0) := by
  unfold checkUpdate
  rw [if_neg (by simp [hvalid]), if_pos hshort]

theorem checkUpdate_outside {s : State} (hvalid : s.fsValid = true)
    (hbytes : bytesNeeded s.fsWidth.toNat s.fsHeight.toNat ≤ s.fsBytelen.toNat)
    (hdim : s.dimensionsInRange = false) : checkUpdate s = .refused .dimensionsNotAdmitted := by
  unfold checkUpdate
  rw [if_neg (by simp [hvalid]), if_neg (Nat.not_lt.mpr hbytes), if_pos hdim]

theorem checkUpdate_ready {s : State} (hready : s.ready = true) : checkUpdate s = .next s.enterReset := by
  simp only [State.ready, Bool.and_eq_true, decide_eq_true_eq] at hready
  obtain ⟨⟨hvalid, hbytes⟩, hdim⟩ := hready
  unfold checkUpdate
  rw [if_neg (by simp [hvalid]), if_neg (Nat.not_lt.mpr hbytes), if_neg (by simp [hdim])]

/-- The admitted dimensions in pixels (44_panel_sequencer R232). -/
theorem dimensionsInRange_iff (s : State) :
    s.dimensionsInRange = true ↔ 8 ≤ s.fsWidth.toNat ∧ s.fsWidth.toNat ≤ 2055 ∧ 1 ≤ s.fsHeight.toNat := by
  simp only [State.dimensionsInRange, Bool.and_eq_true, decide_eq_true_eq]
  unfold State.w8
  omega

/-- The preconditions of UPDATE as the statements write them. -/
theorem ready_iff_updatable (s : State) : s.ready = true ↔ updatable s := by
  simp only [State.ready, Bool.and_eq_true, decide_eq_true_eq, dimensionsInRange_iff, and_assoc]
  rfl

theorem exec_update (s : State) : exec .update s = runOutcome (checkUpdate (s.begin 0x6)) := rfl

/-- Settles O39: both checks end the update in its first core step. -/
theorem updatePreconditions : Obligations.UpdatePreconditions := by
  intro s
  refine ⟨fun hvalid => ?_, fun hvalid hshort => ?_⟩
  · rw [exec_update, checkUpdate_noStore (s := s.begin 0x6) hvalid, runOutcome_finish]
    rfl
  · rw [exec_update, checkUpdate_short (s := s.begin 0x6) hvalid hshort, runOutcome_finish]
    rfl

/-- Settles O40: a width of 7 or 2056 or a height of 0 is outside the admitted dimensions. -/
theorem updateOutsideTheDimensionsIsRefused : Obligations.UpdateOutsideTheDimensionsIsRefused := by
  intro s hvalid hbytes hdim
  have hout : (s.begin 0x6).dimensionsInRange = false := by
    rw [Bool.eq_false_iff, Ne, dimensionsInRange_iff, State.begin_fsWidth, State.begin_fsHeight]
    omega
  rw [exec_update, checkUpdate_outside (s := s.begin 0x6) hvalid hbytes hout, runOutcome]

end Sys2Proof.Machine
end

section
/-! PROOFS. The order of the phases: what a core step does to the phase and the row of the position
(44_panel_sequencer R230, R246). -/

namespace Sys2Proof.Machine

open Sys2Proof.Claims

/-- The position of `t` follows that of `s`: the same phase, one that may come after it, or the end of the operation;
and inside Row Streaming the same row or the next. -/
structure Advances (s t : State) : Prop where
  phase : s.seq.phase.follows t.seq.phase = true
  row : s.seq.phase = .rows → t.seq.phase = .rows →
    t.seq.row = s.seq.row ∨ t.seq.row.toNat = s.seq.row.toNat + 1

theorem Phase.follows_refl (ph : Phase) : ph.follows ph = true := by cases ph <;> rfl

theorem Phase.follows_idle (ph : Phase) : ph.follows .idle = true := by cases ph <;> rfl

/-- A position in the same phase and row follows. -/
theorem Advances.stay {s t : State} (hphase : t.seq.phase = s.seq.phase) (hrow : t.seq.row = s.seq.row) :
    Advances s t := ⟨by rw [hphase]; exact Phase.follows_refl _, fun _ _ => .inl hrow⟩

/-- The end of the operation follows. -/
theorem Advances.ended {s t : State} (h : t.seq = Seq.idle) : Advances s t :=
  ⟨by rw [h]; exact Phase.follows_idle _, fun _ hrows => by simp [h] at hrows⟩

/-- So does a phase that is not Row Streaming, where it may come. -/
theorem Advances.enter {s t : State} (hfollows : s.seq.phase.follows t.seq.phase = true) (hrows : s.seq.phase ≠ .rows) :
    Advances s t := ⟨hfollows, fun h => absurd h hrows⟩

/-- What follows depends on the phase and the row alone. -/
theorem Advances.of_same {s u t : State} (h : Advances u t) (hphase : u.seq.phase = s.seq.phase)
    (hrow : u.seq.row = s.seq.row) : Advances s t :=
  ⟨hphase ▸ h.phase, fun hs ht => hrow ▸ h.row (hphase.trans hs) ht⟩

/-- The end of a phase or row leads to what may follow (10_state R24). -/
theorem phaseEnd_advances (s : State) : Advances s (phaseEnd s) := by
  unfold phaseEnd
  cases hp : s.seq.phase
  case idle | localFill | localPixels => exact .stay rfl rfl
  case localPins =>
    dsimp only
    split
    · exact .enter (by rw [hp]; rfl) (by simp [hp])
    · exact .ended rfl
    · exact .enter (by rw [hp]; rfl) (by simp [hp])
  case reset =>
    dsimp only
    split
    · exact .ended rfl
    · exact .enter (by rw [hp]; rfl) (by simp [hp])
  case init | window | trigger => exact .enter (by rw [hp]; rfl) (by simp [hp])
  case rows =>
    dsimp only
    split
    · rename_i hrow
      refine ⟨by rw [hp]; rfl, fun _ _ => .inr ?_⟩
      rw [BitVec.toNat_add_of_lt (Nat.lt_trans hrow (BitVec.isLt _))]
      rfl
    · exact ⟨by rw [hp]; rfl, fun _ h => nomatch h⟩
  case sleep => exact .ended rfl

theorem settle_advances (s : State) : Advances s (settle s) := by
  unfold settle
  split
  · exact .stay rfl rfl
  · exact phaseEnd_advances s

/-- An answer moves on or ends the operation (60_exceptions R306). -/
theorem settle_answered_advances (s : State) (a : Code) : Advances s (settle (State.answered s a).state) := by
  unfold State.answered
  split
  · exact (settle_advances _).of_same rfl rfl
  · rw [Progress.state, settle_stopped (.inl rfl)]
    exact .ended rfl

theorem settle_cap_advances (c : Call) (s : State) : Advances s (settle (cap c s).state) := by
  unfold cap
  split
  · exact (settle_advances _).of_same rfl rfl
  · exact (settle_answered_advances _ _).of_same rfl rfl

theorem resumeCall_advances (s : State) : Advances s (resumeCall s) := by
  unfold resumeCall
  split
  · exact .stay rfl rfl
  · exact (settle_answered_advances _ _).of_same rfl rfl

theorem callStep_advances {s t : State} (h : callStep s = .next t) : Advances s t := by
  obtain ⟨c, _, h'⟩ | h' | ⟨_, _, _, _, h'⟩ | ⟨_, h'⟩ := callStep_cases s <;> rw [h'] at h <;> cases h
  · exact settle_cap_advances c s
  · exact .ended rfl

/-- The zero fill ends ALLOCATE, or leads SETUP to its Reset phase (45_session_and_host_port R274). -/
theorem fillStep_advances {s t : State} (hp : s.seq.phase = .localFill) (h : fillStep s = .next t) : Advances s t := by
  unfold fillStep at h
  split at h
  · cases h
  · split at h <;> cases h
    · exact .enter (by rw [hp]; rfl) (by simp [hp])
    · exact .ended rfl

/-- The pixel loop leads CLEAR to the Reset phase of its update, or ends it (44_panel_sequencer R260). -/
theorem pixelStep_advances {s t : State} (hp : s.seq.phase = .localPixels) (h : pixelStep s = .next t) :
    Advances s t := by
  unfold pixelStep at h
  split at h
  rename_i code u _
  split at h
  · obtain ⟨_, h'⟩ | h' | ⟨_, h'⟩ := checkUpdate_cases u <;> rw [h'] at h <;> cases h
    · exact .ended rfl
    · exact .enter (by rw [hp]; rfl) (by simp [hp])
  · cases h
    exact .ended rfl

theorem sequencerStep_advances {s t : State} (h : sequencerStep s = .next t) : Advances s t := by
  cases hw : s.waiting with
  | true =>
    rw [sequencerStep_waiting hw] at h
    cases h
    exact resumeCall_advances s
  | false =>
    by_cases hfill : s.seq.phase = .localFill
    · rw [sequencerStep_fill hw hfill] at h
      exact fillStep_advances hfill h
    · by_cases hpixels : s.seq.phase = .localPixels
      · rw [sequencerStep_pixels hw hpixels] at h
        exact pixelStep_advances hpixels h
      · rw [sequencerStep_callStep hw hfill hpixels] at h
        exact callStep_advances h

/-- Settles O57: by the kind of step, an answer, local work, or a call. -/
theorem phasesAreStrictlySequential : Obligations.PhasesAreStrictlySequential := by
  intro s t hbusy h
  rw [step_busy hbusy] at h
  obtain ⟨hphase, hrow⟩ := sequencerStep_advances h
  exact ⟨hphase, hrow⟩

end Sys2Proof.Machine
end

section
/-! PROOFS. The scripts of an update: the call lists of the sequencer's phases are the scripts of the statements, and
how many calls of a kind a script has (44_panel_sequencer R233 to R256, R259). -/

namespace Sys2Proof.Machine

open Sys2Proof.Claims

/-! ### The call lists of the phases -/

theorem phaseCalls_reset {s : State} (hp : s.seq.phase = .reset) : phaseCalls s = resetScript := by
  unfold phaseCalls phaseItems
  rw [hp]
  rfl

/-- The entries of Panel Init before the waveform table (44_panel_sequencer R240). -/
def registerItems : List Item :=
  [.send .analogBlock, .send .digitalBlock, .send .gateSetting, .send .gateVoltage, .send .sourceVoltage,
   .send .dummyLine, .send .gateLineWidth, .send .dataEntryMode, .send .vcom, .send .border1, .send .border2,
   .send .sourceOverride]

theorem phaseItems_init {s : State} (hp : s.seq.phase = .init) :
    phaseItems s = registerItems ++ [.send .setLut] := by
  unfold phaseItems
  rw [hp]
  rfl

theorem calls_sourceOverride (s : State) : PanelCmd.calls .sourceOverride s = overrideScript s := by
  unfold PanelCmd.calls overrideScript
  rw [wire?_sourceOverride]
  cases hyellow : s.colorcap.getLsbD 3 with
  | true =>
    rw [sourceOverride?_of_yellow hyellow]
    rfl
  | false =>
    rw [sourceOverride?_of_not_yellow hyellow, if_neg Bool.false_ne_true]
    by_cases hred : s.colorcap.getLsbD 2 = true ∧ s.product = 0
    · rw [if_pos hred, if_pos hred]
      rfl
    · rw [if_neg hred, if_neg hred]
      rfl

/-- The sends before the waveform table are the register sends (44_panel_sequencer R240). -/
theorem registerItems_calls (s : State) : (registerItems.flatMap fun it => it.calls s) = registerScript s := by
  have hoverride : Item.calls (.send .sourceOverride) s = overrideScript s := calls_sourceOverride s
  have hgate : Item.calls (.send .gateSetting) s = wp Config.panel.cmdGateSetting (pairOf s.fsHeight.toNat) := by
    rw [← pair_eq_pairOf]
    rfl
  simp only [registerItems, List.flatMap_cons, List.flatMap_nil, hoverride, hgate, List.append_nil, registerScript,
    List.append_assoc]
  rfl

/-- The waveform table is the one of the enabled colours (43_register_driver R204). -/
theorem calls_setLut (s : State) : PanelCmd.calls .setLut s = wp Config.panel.cmdSetLut (lutOf s) := rfl

theorem phaseCalls_init {s : State} (hp : s.seq.phase = .init) : phaseCalls s = initScript s := by
  unfold phaseCalls
  rw [phaseItems_init hp, List.flatMap_append, registerItems_calls]
  rfl

theorem phaseCalls_window {s : State} (hp : s.seq.phase = .window) : phaseCalls s = windowScript s := by
  unfold phaseCalls phaseItems windowScript
  rw [hp, ← pair_eq_pairOf, ← pair_eq_pairOf]
  rfl

/-- One row, the colour row with its pointers only where it has a byte that is not 0 (44_panel_sequencer R250). -/
theorem phaseCalls_row {s : State} (hp : s.seq.phase = .rows) : phaseCalls s = rowScript s s.seq.row.toNat := by
  unfold phaseCalls phaseItems rowScript
  rw [hp, ← pair_eq_pairOf]
  dsimp only
  by_cases hcolor : s.colorNonzero s.seq.row.toNat = true
  · have hwire : PanelCmd.wire? .writeColor s =
        some (.wp Config.panel.cmdWriteColor (s.colorRow s.seq.row.toNat)) := if_pos hcolor
    have hwrite : Item.calls (.send .writeColor) s =
        wp Config.panel.cmdWriteColor (s.colorRow s.seq.row.toNat) := by
      rw [Item.calls, PanelCmd.calls, hwire]
      rfl
    rw [hcolor, if_pos ((colorNonzero_iff s _).mp hcolor), rowItems, if_pos rfl, ← hwrite]
    simp only [List.flatMap_append, List.flatMap_cons, List.flatMap_nil, List.append_nil]
    rfl
  · rw [Bool.not_eq_true] at hcolor
    rw [hcolor, if_neg (by rw [← colorNonzero_iff, hcolor]; decide)]
    rfl

theorem phaseCalls_trigger {s : State} (hp : s.seq.phase = .trigger) :
    phaseCalls s = wp Config.panel.cmdUpdateSeq [Config.panel.argUpdateSeq] ++ w0 Config.panel.cmdTrigger ++
      [.delay Config.panel.tTriggerUs, .gpioPollUntil .busy Config.panel.tBusyTimeout] := by
  unfold phaseCalls phaseItems
  rw [hp]
  rfl

theorem phaseCalls_sleep {s : State} (hp : s.seq.phase = .sleep) :
    phaseCalls s = wp Config.panel.cmdDeepSleep [Config.panel.argDeepSleep] := by
  unfold phaseCalls phaseItems
  rw [hp]
  rfl

/-! ### Counting calls -/

/-- Whether the source-voltage override is sent, as a number (43_register_driver R202). -/
def overrideCount (s : State) : Nat :=
  if s.colorcap.getLsbD 3 = true ∨ s.colorcap.getLsbD 2 = true ∧ s.product = 0 then 1 else 0

theorem overrideCount_le_one (s : State) : overrideCount s ≤ 1 := by
  unfold overrideCount
  split <;> omega

theorem coloredRows_le_height (s : State) : coloredRows s ≤ s.fsHeight.toNat := by
  unfold coloredRows
  exact (List.length_filter_le _ _).trans (by simp)

section Count

variable {p : Call → Bool} {m : Nat} (hwp : ∀ cmd data, (wp cmd data).countP p = m) (s : State)

include hwp

theorem countP_overrideScript : (overrideScript s).countP p = m * overrideCount s := by
  unfold overrideScript overrideCount
  by_cases hyellow : s.colorcap.getLsbD 3 = true
  · rw [if_pos hyellow, if_pos (.inl hyellow), hwp, Nat.mul_one]
  · by_cases hred : s.colorcap.getLsbD 2 = true ∧ s.product = 0
    · rw [if_neg hyellow, if_pos hred, if_pos (.inr hred), hwp, Nat.mul_one]
    · rw [if_neg hyellow, if_neg hred, if_neg (not_or.mpr ⟨hyellow, hred⟩), List.countP_nil, Nat.mul_zero]

/-- Eleven sends, and the override where there is one (44_panel_sequencer R240). -/
theorem countP_registerScript : (registerScript s).countP p = 11 * m + m * overrideCount s := by
  simp only [registerScript, List.countP_append, hwp, countP_overrideScript hwp]
  omega

theorem countP_initScript : (initScript s).countP p = 12 * m + m * overrideCount s := by
  simp only [initScript, List.countP_append, hwp, countP_registerScript hwp]
  omega

theorem countP_windowScript : (windowScript s).countP p = 2 * m := by
  simp only [windowScript, List.countP_append, hwp]
  omega

/-- Three sends for a row, and three more where its colour row is sent (44_panel_sequencer R250). -/
theorem countP_rowScript (r : Nat) :
    (rowScript s r).countP p = 3 * m + if ∃ b ∈ s.colorRow r, b ≠ 0 then 3 * m else 0 := by
  unfold rowScript
  split <;> simp only [List.countP_append, List.countP_nil, hwp] <;> omega

theorem countP_rowScripts (rows : List Nat) :
    (rows.flatMap (rowScript s)).countP p =
      3 * m * rows.length + 3 * m * (rows.filter fun r => decide (∃ b ∈ s.colorRow r, b ≠ 0)).length := by
  induction rows with
  | nil => rfl
  | cons r rows ih =>
    rw [List.flatMap_cons, List.countP_append, ih, countP_rowScript hwp, List.filter_cons]
    by_cases hcolor : ∃ b ∈ s.colorRow r, b ≠ 0
    · rw [if_pos hcolor, if_pos (decide_eq_true hcolor), List.length_cons, List.length_cons]
      ring
    · rw [if_neg hcolor, if_neg (by rwa [decide_eq_true_eq]), List.length_cons]
      ring

theorem countP_rowsScript :
    (rowsScript s).countP p = 3 * m * s.fsHeight.toNat + 3 * m * coloredRows s := by
  rw [rowsScript, countP_rowScripts hwp, List.length_range]
  rfl

/-- The calls of a kind in a whole update, by those in a send of form WP (44_panel_sequencer R259). -/
theorem countP_updateScript :
    (updateScript s).countP p =
      resetScript.countP p + (14 * m + m * overrideCount s) +
        (3 * m * s.fsHeight.toNat + 3 * m * coloredRows s) + endScript.countP p := by
  simp only [updateScript, List.countP_append, countP_initScript hwp, countP_windowScript hwp, countP_rowsScript hwp]
  omega

end Count

theorem length_eq_countP_true (l : List Call) : l.length = l.countP fun _ => true := by simp

theorem registerScript_length (s : State) : (registerScript s).length = 44 + 4 * overrideCount s := by
  rw [length_eq_countP_true, countP_registerScript (m := 4) (fun _ _ => rfl)]

theorem initScript_length (s : State) : (initScript s).length = 48 + 4 * overrideCount s := by
  rw [length_eq_countP_true, countP_initScript (m := 4) (fun _ _ => rfl)]

/-- The capability calls of a whole update (44_panel_sequencer R259). -/
theorem updateScript_length (s : State) :
    (updateScript s).length = 75 + 4 * overrideCount s + 12 * s.fsHeight.toNat + 12 * coloredRows s := by
  have hreset : resetScript.countP (fun _ => true) = 7 := rfl
  have hend : endScript.countP (fun _ => true) = 12 := rfl
  rw [length_eq_countP_true, countP_updateScript (m := 4) (fun _ _ => rfl), hreset, hend]
  ring

/-- Its bus writes (44_panel_sequencer R259). -/
theorem updateScript_busWrites (s : State) :
    ((updateScript s).filter isBusWrite).length =
      34 + 2 * overrideCount s + 6 * s.fsHeight.toNat + 6 * coloredRows s := by
  have hreset : resetScript.countP isBusWrite = 1 := rfl
  have hend : endScript.countP isBusWrite = 5 := rfl
  rw [← List.countP_eq_length_filter, countP_updateScript (m := 2) (fun _ _ => rfl), hreset, hend]
  ring

/-- Its sends: each sets the Data/Command line low once (44_panel_sequencer R259). -/
theorem updateScript_sends (s : State) :
    ((updateScript s).filter fun c => c = .gpioWrite .dc .low).length =
      18 + overrideCount s + 3 * s.fsHeight.toNat + 3 * coloredRows s := by
  have hreset : resetScript.countP (fun c => decide (c = .gpioWrite .dc .low)) = 1 := rfl
  have hend : endScript.countP (fun c => decide (c = .gpioWrite .dc .low)) = 3 := rfl
  rw [← List.countP_eq_length_filter, countP_updateScript (m := 1) (fun _ _ => rfl), hreset, hend]
  ring

/-- The calls an update makes at most are fewer than the core steps that the model allows it. -/
theorem possibleCalls_length_lt (s : State) : (possibleCalls s).length + 2 ≤ s.opFuel := by
  have hoverride := overrideCount_le_one s
  have hcolored := coloredRows_le_height s
  unfold possibleCalls State.opFuel
  split
  · rw [updateScript_length]
    omega
  · have hreset : resetScript.length = 7 := rfl
    rw [List.length_append, hreset, registerScript_length]
    omega

end Sys2Proof.Machine
end

section
/-! PROOFS. How an update goes through its calls: what the core steps from one position to a later one do, whatever the
environment answers (44_panel_sequencer R230, R258; 60_exceptions R307). -/

namespace Sys2Proof.Machine

open Sys2Proof.Claims

/-! ### A state of an update in progress -/

/-- `s` when further calls have been made, with `answers` left (00_scope R16). -/
def State.progressed (s : State) (made : List Call) (answers : List Code) : State :=
  s.atCall s.seq.k s.waiting (s.trace ++ made.map fun c => ⟨c, s.ctx⟩) answers

/-- `s` at a position of an operation in progress, with PSTATE as it is there (10_state R24, R33). -/
def State.placed (s : State) (seq : Seq) (p : PState) : State := { s with seq := seq, pstate := p }

@[simp] theorem State.progressed_nil (s : State) : s.progressed [] s.answers = s := by
  simp [State.progressed, State.atCall]

@[simp] theorem phaseCalls_progressed (s : State) (made : List Call) (answers : List Code) :
    phaseCalls (s.progressed made answers) = phaseCalls s := phaseCalls_atCall s _ _ _ _

/-- What comes behind a phase or row does not depend on the calls made (10_state R24). -/
theorem phaseEnd_progressed (s : State) (made : List Call) (answers : List Code) :
    phaseEnd (s.progressed made answers) = (phaseEnd s).progressed made answers := by
  have hphase : (s.progressed made answers).seq.phase = s.seq.phase := rfl
  unfold phaseEnd
  rw [hphase]
  cases s.seq.phase
  case localPins =>
    have halloc : allocation (s.progressed made answers) = allocation s := rfl
    dsimp only
    rw [halloc]
    cases allocation s <;> rfl
  case reset =>
    have hlatch : (s.progressed made answers).latch.op = s.latch.op := rfl
    dsimp only
    rw [hlatch]
    split <;> rfl
  case rows =>
    have hrow : (s.progressed made answers).seq.row = s.seq.row := rfl
    have hheight : (s.progressed made answers).fsHeight = s.fsHeight := rfl
    dsimp only
    rw [hrow, hheight]
    split <;> rfl
  all_goals rfl

theorem settle_progressed (s : State) (made : List Call) (answers : List Code) :
    settle (s.progressed made answers) = (settle s).progressed made answers := by
  have hseq : (s.progressed made answers).seq = s.seq := rfl
  have hwaiting : (s.progressed made answers).waiting = s.waiting := rfl
  unfold settle
  rw [phaseCalls_progressed, hseq, hwaiting]
  split
  · rfl
  · exact phaseEnd_progressed s made answers

/-! ### From one position to another -/

/-- From `u` on an update of `s` makes the calls `cs`, one core step for each, and with all of them answered OK stands
at `v`. The first that is answered otherwise ends it with that code (44_panel_sequencer R258), and where the answers run
out it waits (60_exceptions R307). -/
structure Carries (s u : State) (cs : List Call) (v : State) : Prop where
  ok : ∀ (made : List Call) (rest : List Code) (fuel : Nat),
    runSequencer (cs.length + fuel) (u.progressed made (oks cs.length rest)) =
      runSequencer fuel (v.progressed (made ++ cs) rest)
  fails : ∀ (made done : List Call) (call : Call) (after : List Call) (a : Code) (rest : List Code) (fuel : Nat),
    cs = done ++ call :: after → a ≠ 0 →
    runSequencer (cs.length + fuel) (u.progressed made (oks done.length (a :: rest))) =
      .next (afterRun s (made ++ (done ++ [call])) rest .indeterminate a)
  waits : ∀ (made done : List Call) (call : Call) (after : List Call), cs = done ++ call :: after →
    ∃ t : State, t.waiting = true ∧
      ∀ fuel, runSequencer (cs.length + fuel) (u.progressed made (oks done.length [])) = .next t

theorem oks_add (m n : Nat) (rest : List Code) : oks (m + n) rest = oks m (oks n rest) := by
  rw [oks, List.replicate_add, List.append_assoc]
  rfl

/-- A call of two scripts is one of the first, or one of the second behind the whole first. -/
theorem append_eq_append_cons {cs ds done after : List Call} {call : Call} (h : cs ++ ds = done ++ call :: after) :
    (∃ after', cs = done ++ call :: after') ∨ ∃ done', done = cs ++ done' ∧ ds = done' ++ call :: after := by
  obtain ⟨done', hdone, hds⟩ | ⟨after', hcs, hafter⟩ := List.append_eq_append_iff.mp h
  · exact .inr ⟨done', hdone, hds⟩
  · cases after' with
    | nil =>
      rw [List.append_nil] at hcs
      exact .inr ⟨[], by simp [hcs], hafter.symm⟩
    | cons c after' =>
      cases hafter
      exact .inl ⟨after', hcs⟩

theorem Carries.trans {s u v w : State} {cs ds : List Call} (h : Carries s u cs v) (h' : Carries s v ds w) :
    Carries s u (cs ++ ds) w := by
  refine ⟨fun made rest fuel => ?_, fun made done call after a rest fuel hsplit ha => ?_,
    fun made done call after hsplit => ?_⟩
  · rw [List.length_append, oks_add, Nat.add_assoc, h.ok, h'.ok, List.append_assoc]
  · rw [List.length_append, Nat.add_assoc]
    obtain ⟨after', hcs⟩ | ⟨done', rfl, hds⟩ := append_eq_append_cons hsplit
    · exact h.fails made done call after' a rest _ hcs ha
    · rw [List.length_append, oks_add, h.ok, h'.fails _ done' call after a rest fuel hds ha]
      simp only [List.append_assoc]
  · obtain ⟨after', hcs⟩ | ⟨done', rfl, hds⟩ := append_eq_append_cons hsplit
    · obtain ⟨t, hwaiting, ht⟩ := h.waits made done call after' hcs
      exact ⟨t, hwaiting, fun fuel => by rw [List.length_append, Nat.add_assoc]; exact ht _⟩
    · obtain ⟨t, hwaiting, ht⟩ := h'.waits (made ++ cs) done' call after hds
      refine ⟨t, hwaiting, fun fuel => ?_⟩
      rw [List.length_append, Nat.add_assoc, List.length_append, oks_add, h.ok]
      exact ht fuel

/-- An abort in a phase of an update leaves the panel in an unspecified state (60_exceptions R312). -/
theorem pstateAfterAbort_of_panelSide {s : State} (hside : s.seq.phase.panelSide = true) :
    pstateAfterAbort s = .indeterminate := by
  unfold pstateAfterAbort
  cases hp : s.seq.phase <;> rw [hp] at hside
  case idle | localPins | localFill | localPixels => cases hside
  all_goals rfl

/-- Where the answers run out a script stops in a wait (60_exceptions R307). -/
theorem runCalls_waits_exists (done : List Call) (call : Call) (after : List Call) (s : State)
    (h : s.answers = List.replicate done.length Code.ok) :
    ∃ t : State, t.waiting = true ∧ runCalls (done ++ call :: after) s = .stop t :=
  ⟨_, rfl, runCalls_waits done call after s h⟩

/-- The statements' end state of a run is told by `s` and all the calls, wherever in the update `s` has come to. -/
theorem afterRun_progressed (s : State) (seq : Seq) (p q : PState) (made calls : List Call) (answers rest : List Code)
    (a : Code) :
    afterRun ((s.placed seq p).progressed made answers) calls rest q a = afterRun s (made ++ calls) rest q a := by
  simp [afterRun, ended, State.progressed, State.atCall, State.placed]

/-- Calls answered OK move `K` on and are added to the calls made (10_state R24). -/
theorem afterCalls_progressed (s : State) (ph : Phase) (row : Half) (p : PState) (made calls : List Call)
    (answers rest : List Code) :
    ((s.placed ⟨ph, row, 0⟩ p).progressed made answers).afterCalls calls rest =
      (s.placed ⟨ph, row, calls.length⟩ p).progressed (made ++ calls) rest := by
  simp [State.afterCalls, State.progressed, State.atCall, State.placed]

/-- The first calls of a phase or row, none of them behind the frame-type check or without a meaning, are one script. -/
theorem carries_calls {s : State} {ph : Phase} {row : Half} {p : PState} {cs post : List Call} (hw : s.waiting = false)
    (hside : ph.panelSide = true) (hne : cs ≠ []) (hcalls : phaseCalls (s.placed ⟨ph, row, 0⟩ p) = cs ++ post)
    (hclear : ∀ made answers k, k < cs.length → clearAt ((s.placed ⟨ph, row, 0⟩ p).progressed made answers) k) :
    Carries s (s.placed ⟨ph, row, 0⟩ p) cs (settle (s.placed ⟨ph, row, cs.length⟩ p)) := by
  have hrun (made : List Call) (answers : List Code) (fuel : Nat) :
      runSequencer (cs.length + fuel) ((s.placed ⟨ph, row, 0⟩ p).progressed made answers) =
        goOn fuel (runCalls cs ((s.placed ⟨ph, row, 0⟩ p).progressed made answers)) := by
    refine runSequencer_calls cs [] post ((s.placed ⟨ph, row, 0⟩ p).progressed made answers) hne
      (by rw [phaseCalls_progressed, hcalls]; rfl) rfl hw (fun k hk => ?_) fuel
    have hzero : ((s.placed ⟨ph, row, 0⟩ p).progressed made answers).seq.k = 0 := rfl
    rw [hzero, Nat.zero_add]
    exact hclear made answers k hk
  refine ⟨fun made rest fuel => ?_, fun made done call after a rest fuel hsplit ha => ?_,
    fun made done call after hsplit => ?_⟩
  · rw [hrun, runCalls_ok cs _ rest rfl, goOn, afterCalls_progressed, settle_progressed]
  · rw [hrun, hsplit, runCalls_fails done call after _ a rest rfl ha, goOn, abort_afterCalls_eq_afterRun,
      pstateAfterAbort_of_panelSide hside, afterRun_progressed]
  · obtain ⟨t, hwaiting, ht⟩ := runCalls_waits_exists done call after
      ((s.placed ⟨ph, row, 0⟩ p).progressed made (oks done.length [])) (List.append_nil _)
    refine ⟨t, hwaiting, fun fuel => ?_⟩
    rw [hrun, hsplit, ht, goOn]

/-! ### The phases -/

/-- What an update enters its Reset phase with: its preconditions met, and an op code that is not SETUP's
(44_panel_sequencer R231, R233). -/
structure StartsUpdate (s : State) : Prop where
  running : s.waiting = false
  ready : s.ready = true
  op : s.latch.op ≠ 0x1

/-- With the preconditions of UPDATE met nothing stands in front of a call but the frame-type check. -/
theorem clearAt_of_ready {s : State} {k : Nat} (hready : s.ready = true)
    (hlut : s.seq.phase = .init → s.frametype = 0) : clearAt s k := by
  refine clearAt_of_items fun c hc => ⟨frameTypeFails_eq_false ?_, PanelCmd.admitted_of_ready c hready⟩
  rintro rfl
  exact hlut (phase_of_setLut_mem hc)

/-- A call of the first entries of a list is found among them. -/
theorem findItem_append_left {s : State} {its : List Item} {k : Nat} (post : List Item)
    (hk : k < (its.flatMap fun it => it.calls s).length) : findItem s (its ++ post) k = findItem s its k := by
  obtain ⟨pre, it, after, j, rfl, hfound, hj, hpos⟩ := findItem_some s its k hk
  rw [hfound, hpos, List.append_assoc, List.cons_append]
  exact findItem_inside s pre it (after ++ post) hj

/-- The register sends stand before the frame-type check (44_panel_sequencer R240, R244). -/
theorem clearAt_registers {s : State} {k : Nat} (hready : s.ready = true) (hp : s.seq.phase = .init)
    (hk : k < (registerScript s).length) : clearAt s k := by
  intro c hc
  rw [phaseItems_init hp, findItem_append_left _ (by rwa [registerItems_calls])] at hc
  refine ⟨frameTypeFails_eq_false ?_, PanelCmd.admitted_of_ready c hready⟩
  rintro rfl
  have hmem := findItem_mem hc
  simp [registerItems] at hmem

/-- The end of a phase or row of an update does not depend on `K` (10_state R24). -/
theorem phaseEnd_placed (s : State) {ph : Phase} (hside : ph.panelSide = true) (row : Half) (k k' : Nat) (p : PState) :
    phaseEnd (s.placed ⟨ph, row, k⟩ p) = phaseEnd (s.placed ⟨ph, row, k'⟩ p) := by
  cases ph
  case idle | localPins | localFill | localPixels => cases hside
  all_goals rfl

/-- A whole phase or row of an update: all its calls, and then its end. -/
theorem carries_phase {s : State} {ph : Phase} {row : Half} {p : PState} {cs : List Call} (h : StartsUpdate s)
    (hside : ph.panelSide = true) (hlut : ph = .init → s.frametype = 0) (hne : cs ≠ [])
    (hcalls : ∀ k, phaseCalls (s.placed ⟨ph, row, k⟩ p) = cs) :
    Carries s (s.placed ⟨ph, row, 0⟩ p) cs (phaseEnd (s.placed ⟨ph, row, 0⟩ p)) := by
  have hbusy : (s.placed ⟨ph, row, cs.length⟩ p).seq.phase ≠ .idle := by
    rintro rfl
    cases hside
  rw [phaseEnd_placed s hside row 0 cs.length p,
    ← settle_end (s := s.placed ⟨ph, row, cs.length⟩ p) hbusy h.running (by rw [hcalls]; exact Nat.le_refl _)]
  exact carries_calls (post := []) h.running hside hne (by rw [hcalls, List.append_nil])
    (fun _ _ _ _ => clearAt_of_ready h.ready hlut)

section Phases

variable {s : State} (h : StartsUpdate s)

include h

theorem carries_reset : Carries s s.enterReset resetScript (s.placed ⟨.init, 0, 0⟩ .awake) := by
  have hend : phaseEnd (s.placed ⟨.reset, 0, 0⟩ .indeterminate) = s.placed ⟨.init, 0, 0⟩ .awake := if_neg h.op
  rw [← hend]
  exact carries_phase h rfl nofun nofun fun _ => phaseCalls_reset rfl

/-- The register sends, up to the frame-type check, which the frame type does not change (44_panel_sequencer R240,
R244). -/
theorem carries_registers :
    Carries s (s.placed ⟨.init, 0, 0⟩ .awake) (registerScript s)
      (s.placed ⟨.init, 0, (registerScript s).length⟩ .awake) := by
  have hcalls (k : Nat) : phaseCalls (s.placed ⟨.init, 0, k⟩ .awake) = registerScript s ++ wp _ (lutOf s) :=
    phaseCalls_init rfl
  have hinside : settle (s.placed ⟨.init, 0, (registerScript s).length⟩ .awake) = s.placed ⟨.init, 0, _⟩ .awake :=
    settle_inside (by rw [hcalls, List.length_append]; exact Nat.lt_add_of_pos_right (Nat.succ_pos 3))
  have hcarries := carries_calls h.running rfl (List.ne_nil_of_length_pos (by rw [registerScript_length]; omega))
    (hcalls 0) fun _ _ _ hk => clearAt_registers h.ready rfl hk
  rwa [hinside] at hcarries

theorem carries_init (hframe : s.frametype = 0) :
    Carries s (s.placed ⟨.init, 0, 0⟩ .awake) (initScript s) (s.placed ⟨.window, 0, 0⟩ .awake) :=
  carries_phase h rfl (fun _ => hframe) (List.ne_nil_of_length_pos (by rw [initScript_length]; omega))
    fun _ => phaseCalls_init rfl

theorem carries_window :
    Carries s (s.placed ⟨.window, 0, 0⟩ .awake) (windowScript s) (s.placed ⟨.rows, 0, 0⟩ .awake) :=
  carries_phase h rfl nofun nofun fun _ => phaseCalls_window rfl

theorem carries_row (row : Half) :
    Carries s (s.placed ⟨.rows, row, 0⟩ .awake) (rowScript s row.toNat)
      (phaseEnd (s.placed ⟨.rows, row, 0⟩ .awake)) := by
  have hne : rowScript s row.toNat ≠ [] := by
    unfold rowScript
    simp [wp]
  exact carries_phase h rfl nofun hne fun _ => phaseCalls_row rfl

/-- The last `n + 1` rows, one after the other, and then the trigger (44_panel_sequencer R246). -/
theorem carries_rows_from (n : Nat) (row : Half) (hrow : row.toNat + (n + 1) = s.fsHeight.toNat) :
    Carries s (s.placed ⟨.rows, row, 0⟩ .awake) ((List.range' row.toNat (n + 1)).flatMap (rowScript s))
      (s.placed ⟨.trigger, 0, 0⟩ .awake) := by
  have hfirst := carries_row h row
  induction n generalizing row with
  | zero =>
    have hend : phaseEnd (s.placed ⟨.rows, row, 0⟩ .awake) = s.placed ⟨.trigger, 0, 0⟩ .awake :=
      if_neg (Nat.not_lt.mpr (Nat.le_of_eq hrow.symm))
    rw [hend] at hfirst
    simpa using hfirst
  | succ n ih =>
    have hinside : row.toNat + 1 < s.fsHeight.toNat := by omega
    have hend : phaseEnd (s.placed ⟨.rows, row, 0⟩ .awake) = s.placed ⟨.rows, row + 1, 0⟩ .awake := if_pos hinside
    have hnext : (row + 1).toNat = row.toNat + 1 := BitVec.toNat_add_of_lt (Nat.lt_trans hinside (BitVec.isLt _))
    rw [hend] at hfirst
    have hrest := ih (row + 1) (by omega) (carries_row h (row + 1))
    rw [hnext] at hrest
    rw [List.range'_succ, List.flatMap_cons]
    exact hfirst.trans hrest

theorem carries_rows : Carries s (s.placed ⟨.rows, 0, 0⟩ .awake) (rowsScript s) (s.placed ⟨.trigger, 0, 0⟩ .awake) := by
  obtain ⟨n, hn⟩ := Nat.exists_eq_add_of_lt (height_pos_of_ready h.ready)
  rw [Nat.zero_add] at hn
  have hrows := carries_rows_from h n 0 (by rw [hn]; exact Nat.zero_add _)
  rwa [← hn, show (0 : Half).toNat = 0 from rfl, ← List.range_eq_range'] at hrows

/-- Trigger & Wait and Sleep, behind which the operation has ended with the panel asleep (44_panel_sequencer R251,
R256). -/
theorem carries_end :
    Carries s (s.placed ⟨.trigger, 0, 0⟩ .awake) endScript (ended { s with pstate := .asleep } 0 0) := by
  have htrigger := carries_phase (s := s) (ph := .trigger) (row := 0) (p := .awake) h rfl nofun
    (by simp [wp]) fun _ => phaseCalls_trigger rfl
  have hsleep := carries_phase (s := s) (ph := .sleep) (row := 0) (p := .awake) h rfl nofun
    (by simp [wp]) fun _ => phaseCalls_sleep rfl
  exact Carries.trans htrigger hsleep

/-- With the full frame type an update goes through all its calls (44_panel_sequencer R230). -/
theorem carries_update (hframe : s.frametype = 0) :
    Carries s s.enterReset (updateScript s) (ended { s with pstate := .asleep } 0 0) :=
  ((((carries_reset h).trans (carries_init h hframe)).trans (carries_window h)).trans (carries_rows h)).trans
    (carries_end h)

end Phases

end Sys2Proof.Machine
end

section
/-! PROOFS. The statements about UPDATE and UPDATE_BY_MODE: the whole update, the first failure, the frame-type check,
the size, and the modes (44_panel_sequencer R230, R237, R244, R258, R259, R262). -/

namespace Sys2Proof.Machine

open Sys2Proof.Claims

/-! ### How an update ends -/

/-- PSTATE and the code behind the last call of an update: asleep with OK, or under another frame type the abort of the
check before the waveform table (44_panel_sequencer R244, R256). -/
def updateEnd (s : State) : PState × Code :=
  if s.frametype = 0 then (.asleep, 0) else (.indeterminate, 1)

/-- Behind the register sends the frame-type check ends an update of another frame type (44_panel_sequencer R244). -/
theorem runSequencer_frameType {s : State} (hw : s.waiting = false) (hp : s.seq.phase = .init)
    (hk : s.seq.k = (registerScript s).length) (hframe : s.frametype ≠ 0) (fuel : Nat) :
    runSequencer (fuel + 1) s = .next (afterRun s [] s.answers .indeterminate 1) := by
  have hlut : findItem s (phaseItems s) s.seq.k = some (.send .setLut, 0) := by
    rw [phaseItems_init hp, hk, ← registerItems_calls]
    exact findItem_at s registerItems (.send .setLut) [] (by simp [Item.calls, calls_setLut, wp])
  rw [runSequencer_step fuel (by simp [hp]) hw (sequencerStep_frameType hw hlut hframe),
    runSequencer_done _ _ (.inl rfl)]
  rfl

/-- An update goes through the calls it makes at most to a position from which one core step ends it, if it has not
ended there. -/
theorem exists_carries_possibleCalls {s : State} (h : StartsUpdate s) :
    ∃ v : State, Carries s s.enterReset (possibleCalls s) v ∧
      ∀ made rest fuel, runSequencer (fuel + 1) (v.progressed made rest) =
        .next (afterRun s made rest (updateEnd s).1 (updateEnd s).2) := by
  unfold possibleCalls updateEnd
  by_cases hframe : s.frametype = 0
  · rw [if_pos hframe, if_pos hframe]
    exact ⟨_, carries_update h hframe, fun _ _ _ => runSequencer_done _ _ (.inl rfl)⟩
  · rw [if_neg hframe, if_neg hframe]
    refine ⟨_, (carries_reset h).trans (carries_registers h), fun made rest fuel => ?_⟩
    rw [runSequencer_frameType (s := (s.placed ⟨.init, 0, _⟩ .awake).progressed made rest) h.running rfl rfl hframe,
      afterRun_progressed, List.append_nil]
    rfl

section Run

variable {s : State} (h : StartsUpdate s) {fuel : Nat} (hfuel : (possibleCalls s).length + 1 ≤ fuel)

include h hfuel

/-- With every call answered OK the update makes all its calls. -/
theorem runUpdate_ok {rest : List Code} (hanswers : s.answers = oks (possibleCalls s).length rest) :
    runSequencer fuel s.enterReset =
      .next (afterRun s (possibleCalls s) rest (updateEnd s).1 (updateEnd s).2) := by
  obtain ⟨v, hcarries, hend⟩ := exists_carries_possibleCalls h
  obtain ⟨n, rfl⟩ := Nat.exists_eq_add_of_le hfuel
  have hrun := hcarries.ok [] rest (n + 1)
  rw [← hanswers, ← State.enterReset_answers, State.progressed_nil, hend] at hrun
  rwa [show (possibleCalls s).length + 1 + n = (possibleCalls s).length + (n + 1) by omega]

/-- The first call that is not answered OK is the last one made. -/
theorem runUpdate_fails {done : List Call} {call : Call} {after : List Call} {a : Code} {rest : List Code}
    (hcalls : possibleCalls s = done ++ call :: after) (ha : a ≠ 0)
    (hanswers : s.answers = oks done.length (a :: rest)) :
    runSequencer fuel s.enterReset = .next (afterRun s (done ++ [call]) rest .indeterminate a) := by
  obtain ⟨v, hcarries, _⟩ := exists_carries_possibleCalls h
  obtain ⟨n, rfl⟩ := Nat.exists_eq_add_of_le (Nat.le_of_succ_le hfuel)
  have hrun := hcarries.fails [] done call after a rest n hcalls ha
  rwa [← hanswers, ← State.enterReset_answers, State.progressed_nil] at hrun

end Run

/-- Whatever the environment answers, an update has come to its end or to a wait within its calls and one core step. -/
theorem runUpdate_ends {s : State} (h : StartsUpdate s) :
    ∃ t, ∀ fuel, (possibleCalls s).length + 1 ≤ fuel → runSequencer fuel s.enterReset = .next t := by
  obtain ⟨rest, hanswers, _⟩ | ⟨done, call, after, a, rest, hcalls, ha, hanswers, _⟩ |
      ⟨done, call, after, hcalls, hanswers, _⟩ := runCalls_cases (possibleCalls s) s
  · exact ⟨_, fun fuel hfuel => runUpdate_ok h hfuel hanswers⟩
  · exact ⟨_, fun fuel hfuel => runUpdate_fails h hfuel hcalls ha hanswers⟩
  · obtain ⟨v, hcarries, _⟩ := exists_carries_possibleCalls h
    obtain ⟨t, _, ht⟩ := hcarries.waits [] done call after hcalls
    refine ⟨t, fun fuel hfuel => ?_⟩
    obtain ⟨n, rfl⟩ := Nat.exists_eq_add_of_le (Nat.le_of_succ_le hfuel)
    have hoks : s.enterReset.answers = oks done.length [] := hanswers.trans (List.append_nil _).symm
    have hrun := ht n
    rwa [← hoks, State.progressed_nil] at hrun

/-! ### UPDATE -/

theorem begin_startsUpdate {s : State} (h : updatable s) {op : BitVec 4} (hop : op ≠ 0x1) : StartsUpdate (s.begin op) :=
  ⟨rfl, (ready_iff_updatable s).mpr h, hop⟩

theorem exec_update_updatable {s : State} (h : updatable s) :
    exec .update s = runSequencer s.opFuel (s.begin 0x6).enterReset := by
  rw [exec_update, checkUpdate_ready (begin_startsUpdate h (by decide)).ready]
  rfl

/-- The calls of an update fit its core steps. -/
theorem possibleCalls_length_succ_le (s : State) : (possibleCalls s).length + 1 ≤ s.opFuel :=
  Nat.le_of_succ_le (possibleCalls_length_lt s)

/-- UPDATE with every call answered OK, under any frame type. -/
theorem exec_update_ok {s : State} {rest : List Code} (h : updatable s)
    (hanswers : s.answers = oks (possibleCalls s).length rest) :
    exec .update s =
      .next (afterRun (latched s 6) (possibleCalls s) rest (updateEnd s).1 (updateEnd s).2) := by
  rw [exec_update_updatable h]
  exact runUpdate_ok (begin_startsUpdate h (by decide)) (possibleCalls_length_succ_le s) hanswers

/-- Settles O41: with the full frame type the calls made at most are those of the whole script. -/
theorem updateRunsTheWholeScript : Obligations.UpdateRunsTheWholeScript := by
  intro s rest h hframe hanswers
  have hcalls : possibleCalls s = updateScript s := if_pos hframe
  have hend : updateEnd s = (.asleep, 0) := if_pos hframe
  have hrun := exec_update_ok h (by rwa [hcalls])
  rwa [hcalls, hend] at hrun

/-- Settles O44: with another frame type the calls made at most are those before the check. -/
theorem otherFrameTypesAbort : Obligations.OtherFrameTypesAbort := by
  intro s rest h hframe hanswers
  have hcalls : possibleCalls s = resetScript ++ registerScript s := if_neg hframe
  have hend : updateEnd s = (.indeterminate, 1) := if_neg hframe
  have hrun := exec_update_ok h (by rwa [hcalls])
  rwa [hcalls, hend] at hrun

/-- Settles O42: the calls of an update up to the check are one script, which stops at the call. -/
theorem updateStopsAtTheFirstFailure : Obligations.UpdateStopsAtTheFirstFailure := by
  intro s done call after a rest h hcalls ha hanswers
  rw [exec_update_updatable h]
  exact runUpdate_fails (begin_startsUpdate h (by decide)) (possibleCalls_length_succ_le s) hcalls ha hanswers

/-- Every update begins with the Reset phase, whose last call is the first busy poll (44_panel_sequencer R233, R236). -/
theorem exists_possibleCalls_eq (s : State) : ∃ after, possibleCalls s = resetScript ++ after := by
  unfold possibleCalls
  split
  · exact ⟨initScript s ++ windowScript s ++ rowsScript s ++ endScript, by simp only [updateScript, List.append_assoc]⟩
  · exact ⟨_, rfl⟩

/-- Settles O43: the first poll is the call behind the first six, and only the software reset is a bus write. -/
theorem firstPollFailureStopsTheBus : Obligations.FirstPollFailureStopsTheBus := by
  intro s a rest h ha hanswers
  obtain ⟨after, hcalls⟩ := exists_possibleCalls_eq s
  exact ⟨updateStopsAtTheFirstFailure s (resetScript.take 6) (.gpioPollUntil .busy Config.panel.tBusyTimeout) after
    a rest h hcalls ha hanswers, rfl⟩

/-- Settles O45: the calls are those of the whole script. -/
theorem updateSize : Obligations.UpdateSize := by
  intro s ov rest hov h hframe hanswers
  obtain rfl : ov = overrideCount s := by
    obtain ⟨rfl, hcolor⟩ | ⟨rfl, hyellow, hred⟩ := hov
    · exact (if_pos hcolor).symm
    · refine (if_neg ?_).symm
      exact not_or.mpr ⟨ne_true_of_eq_false hyellow, fun ⟨hon, hwide⟩ =>
        hred.elim (fun hoff => ne_true_of_eq_false hoff hon) (fun hnarrow => hnarrow hwide)⟩
  rw [← updateScript_length] at hanswers ⊢
  exact ⟨_, updateScript s, updateRunsTheWholeScript s rest h hframe hanswers, rfl, rfl, rfl, rfl,
    updateScript_busWrites s, updateScript_sends s⟩

/-! ### The op code in the latch

UPDATE, UPDATE_BY_MODE and CLEAR hold their own op codes while they update (entry 10). An update reads the op code only
to tell itself from SETUP, so all three do the same. -/

/-- An outcome with its next state, if it has one, changed. -/
def mapNext (f : State → State) : Outcome → Outcome
  | .next s => .next (f s)
  | .fault e => .fault e
  | .refused r => .refused r

@[simp] theorem PanelCmd.calls_latched (c : PanelCmd) (s : State) (op : BitVec 4) :
    PanelCmd.calls c (latched s op) = PanelCmd.calls c s := by
  cases c <;> rfl

@[simp] theorem Item.calls_latched (it : Item) (s : State) (op : BitVec 4) : it.calls (latched s op) = it.calls s := by
  cases it with
  | call c => rfl
  | send c => exact PanelCmd.calls_latched c s op

@[simp] theorem phaseCalls_latched (s : State) (op : BitVec 4) : phaseCalls (latched s op) = phaseCalls s := by
  have hitems : phaseItems (latched s op) = phaseItems s := rfl
  simp only [phaseCalls, hitems, Item.calls_latched]

theorem findItem_latched (s : State) (op : BitVec 4) (its : List Item) (k : Nat) :
    findItem (latched s op) its k = findItem s its k := by
  induction its generalizing k with
  | nil => rfl
  | cons it its ih => simp only [findItem, Item.calls_latched, ih]

theorem obstacle?_latched (s : State) (op : BitVec 4) :
    obstacle? (latched s op) = (obstacle? s).map (mapNext (latched · op)) := by
  have hitems : phaseItems (latched s op) = phaseItems s := rfl
  have hseq : (latched s op).seq = s.seq := rfl
  unfold obstacle?
  rw [hitems, hseq, findItem_latched]
  split
  · rename_i c _
    have hframe : frameTypeFails c (latched s op) = frameTypeFails c s := rfl
    have hrefusal : PanelCmd.refusal? c (latched s op) = PanelCmd.refusal? c s := by cases c <;> rfl
    rw [hframe, hrefusal]
    split
    · rfl
    · cases PanelCmd.refusal? c s <;> rfl
  all_goals rfl

section Latch

variable {s : State} {op : BitVec 4} (hs : s.latch.op ≠ 0x1) (hop : op ≠ 0x1)

include hs hop

theorem phaseEnd_latched : phaseEnd (latched s op) = latched (phaseEnd s) op := by
  have hphase : (latched s op).seq.phase = s.seq.phase := rfl
  unfold phaseEnd
  rw [hphase]
  cases s.seq.phase
  case localPins =>
    have halloc : allocation (latched s op) = allocation s := rfl
    dsimp only
    rw [halloc]
    cases allocation s <;> rfl
  case reset =>
    dsimp only
    rw [if_neg hs]
    exact if_neg hop
  case rows =>
    have hrow : (latched s op).seq.row = s.seq.row := rfl
    have hheight : (latched s op).fsHeight = s.fsHeight := rfl
    dsimp only
    rw [hrow, hheight]
    split <;> rfl
  all_goals rfl

theorem settle_latched : settle (latched s op) = latched (settle s) op := by
  have hseq : (latched s op).seq = s.seq := rfl
  have hwaiting : (latched s op).waiting = s.waiting := rfl
  unfold settle
  rw [phaseCalls_latched, hseq, hwaiting, phaseEnd_latched hs hop]
  exact (apply_ite (latched · op) _ _ _).symm

theorem settle_answered_latched (a : Code) :
    settle (State.answered (latched s op) a).state = latched (settle (State.answered s a).state) op := by
  unfold State.answered
  split
  · exact settle_latched (s := { s with seq := { s.seq with k := s.seq.k + 1 } }) hs hop
  · exact settle_latched (s := s.abort a) hs hop

theorem settle_cap_latched (c : Call) :
    settle (cap c (latched s op)).state = latched (settle (cap c s).state) op := by
  have hanswers : (latched s op).answers = s.answers := rfl
  unfold cap
  rw [hanswers]
  split
  · exact settle_latched (s := { s.emit c with waiting := true }) hs hop
  · rename_i a rest _
    exact settle_answered_latched (s := { s.emit c with answers := rest }) hs hop a

theorem resumeCall_latched : resumeCall (latched s op) = latched (resumeCall s) op := by
  have hanswers : (latched s op).answers = s.answers := rfl
  unfold resumeCall
  rw [hanswers]
  split
  · rfl
  · rename_i a rest _
    exact settle_answered_latched (s := { s with answers := rest, waiting := false }) hs hop a

theorem callStep_latched : callStep (latched s op) = mapNext (latched · op) (callStep s) := by
  have hseq : (latched s op).seq = s.seq := rfl
  unfold callStep
  rw [obstacle?_latched, phaseCalls_latched, hseq]
  cases obstacle? s with
  | some o => rfl
  | none =>
    dsimp only [Option.map]
    cases (phaseCalls s)[s.seq.k]? with
    | none => rfl
    | some c => exact congrArg _ (settle_cap_latched hs hop c)

/-- A core step of an update does the same whatever the op code, if it is not SETUP's. -/
theorem sequencerStep_latched (houtside : s.outsideLocal) :
    sequencerStep (latched s op) = mapNext (latched · op) (sequencerStep s) := by
  cases hw : s.waiting with
  | true =>
    have hw' : (latched s op).waiting = true := hw
    rw [sequencerStep_waiting hw, sequencerStep_waiting hw', resumeCall_latched hs hop]
    rfl
  | false =>
    have hw' : (latched s op).waiting = false := hw
    have hfill : s.seq.phase ≠ .localFill := fun hp => houtside (by rw [hp]; rfl)
    have hpixels : s.seq.phase ≠ .localPixels := fun hp => houtside (by rw [hp]; rfl)
    rw [sequencerStep_callStep hw hfill hpixels,
      sequencerStep_callStep (s := latched s op) hw' hfill hpixels, callStep_latched hs hop]

end Latch

/-- So does a run of core steps. -/
theorem runSequencer_latched (fuel : Nat) {s : State} {op : BitVec 4} (hs : s.latch.op ≠ 0x1) (hop : op ≠ 0x1)
    (houtside : s.outsideLocal) :
    runSequencer fuel (latched s op) = mapNext (latched · op) (runSequencer fuel s) := by
  induction fuel generalizing s with
  | zero => rfl
  | succ fuel ih =>
    have hseq : (latched s op).seq = s.seq := rfl
    have hwaiting : (latched s op).waiting = s.waiting := rfl
    unfold runSequencer
    rw [hseq, hwaiting]
    split
    · rfl
    · rw [sequencerStep_latched hs hop houtside]
      cases hstep : sequencerStep s with
      | next t =>
        obtain ⟨hframe, houtside'⟩ := sequencerStep_frame houtside hstep
        have hlatch : t.latch = s.latch := by
          rw [show t = _ from hframe]
        exact ih (by rwa [hlatch]) houtside'
      | fault f => rfl
      | refused r => rfl

theorem checkUpdate_latched (s : State) (op : BitVec 4) :
    checkUpdate (latched s op) = mapNext (latched · op) (checkUpdate s) := by
  unfold checkUpdate
  simp only [apply_ite (mapNext (latched · op))]
  rfl

/-! ### UPDATE_BY_MODE -/

/-- The full mode is UPDATE with its own op code in the latch (44_panel_sequencer R262). -/
theorem exec_updateByMode_full (s : State) :
    exec (.updateByMode .alwaysFull) s = mapNext (latched · 7) (exec .update s) := by
  change runOutcome (checkUpdate (latched (s.begin 0x6) 7)) = _
  rw [checkUpdate_latched, exec_update]
  cases hcheck : checkUpdate (s.begin 0x6) with
  | next t =>
    have hlatch : t.latch = (s.begin 0x6).latch := by
      rw [show t = _ from SequencerFrame.checkUpdate hcheck]
    have hop : t.latch.op ≠ 0x1 := by
      rw [hlatch]
      exact (by decide : (0x6 : BitVec 4) ≠ 0x1)
    exact runSequencer_latched t.opFuel hop (by decide) (checkUpdate_outsideLocal hcheck)
  | fault f => rfl
  | refused r => rfl

/-- The other modes end at once (44_panel_sequencer R262). -/
theorem exec_updateByMode_other {m : FrameType} (hm : m ≠ .alwaysFull) (s : State) :
    exec (.updateByMode m) s = .next (ended s 1 0) := by
  change runOutcome (startUpdateByMode m s) = _
  rw [startUpdateByMode, if_neg hm, runOutcome_finish]
  rfl

/-- Settles O47: the full mode maps the outcome of UPDATE to its own latch. -/
theorem updateByModeRunsOnlyTheFullMode : Obligations.UpdateByModeRunsOnlyTheFullMode := by
  intro s
  refine ⟨fun m hm => exec_updateByMode_other hm s, fun t ht => ?_, fun r hr => ?_, fun rest h hframe hanswers => ?_⟩
  · rw [exec_updateByMode_full, ht, mapNext]
  · rw [exec_updateByMode_full, hr, mapNext]
  · rw [exec_updateByMode_full, updateRunsTheWholeScript s rest h hframe hanswers]
    rfl

end Sys2Proof.Machine
end

section
/-! PROOFS. CLEAR: the pixel loop, where it stops, and the update of the white image behind it (44_panel_sequencer
R260). -/

namespace Sys2Proof.Machine

open Sys2Proof.Claims

/-! ### Writing a list of pixels -/

/-- The state after pixels were written, one after the other. -/
def pixelsWritten (c : Colour) : List (Nat × Nat) → State → State
  | [], s => s
  | p :: rest, s => pixelsWritten c rest (pixelWritten p.1 p.2 c s)

/-- Writing pixels changes nothing but the buffer. -/
theorem pixelsWritten_frame (c : Colour) (l : List (Nat × Nat)) (s : State) :
    pixelsWritten c l s = { s with buf := (pixelsWritten c l s).buf } := by
  induction l generalizing s with
  | nil => rfl
  | cons p l ih => exact ih (pixelWritten p.1 p.2 c s)

/-- The pixel loop goes on behind pixels that are accepted. -/
theorem setPixels_append {c : Colour} {pre : List (Nat × Nat)} {s : State}
    (hpre : ∀ p ∈ pre, AcceptsPixel s p.1 p.2 c) (post : List (Nat × Nat)) :
    setPixels c (pre ++ post) s = setPixels c post (pixelsWritten c pre s) := by
  induction pre generalizing s with
  | nil => rfl
  | cons p pre ih =>
    obtain ⟨hp, hpre⟩ := List.forall_mem_cons.mp hpre
    rw [List.cons_append, setPixels, setPixel_accepted hp]
    exact ih fun q hq => (hpre q hq).pixelWritten p.1 p.2 c

/-- It writes them all where all are accepted. -/
theorem setPixels_accepted {c : Colour} {l : List (Nat × Nat)} {s : State} (h : ∀ p ∈ l, AcceptsPixel s p.1 p.2 c) :
    setPixels c l s = (Code.ok, pixelsWritten c l s) := by
  rw [← List.append_nil l, setPixels_append h, List.append_nil]
  rfl

/-- It ends at a pixel that fails. -/
theorem setPixels_stop {c : Colour} {p : Nat × Nat} {s : State} {code : Code}
    (hfails : setPixel p.1 p.2 c s = (code, s)) (hcode : code ≠ Code.ok) (rest : List (Nat × Nat)) :
    setPixels c (p :: rest) s = (code, s) := by
  rw [setPixels, hfails]
  exact if_neg hcode

/-- A pixel that was written has the colour's code, another one its own. -/
theorem pixelCode_pixelsWritten {c : Colour} {l : List (Nat × Nat)} {s : State} {x : Nat} (y : Nat)
    (hcolumns : ∀ p ∈ l, p.1 < s.fsWidth.toNat) (hx : x < s.fsWidth.toNat) :
    (pixelsWritten c l s).pixelCode x y = if (x, y) ∈ l then codeOf c else s.pixelCode x y := by
  induction l generalizing s with
  | nil => simp [pixelsWritten]
  | cons p l ih =>
    obtain ⟨hp, hcolumns⟩ := List.forall_mem_cons.mp hcolumns
    rw [pixelsWritten, ih (s := pixelWritten p.1 p.2 c s) hcolumns hx, pixelCode_pixelWritten y c s hp hx]
    by_cases hmem : (x, y) ∈ l
    · rw [if_pos hmem, if_pos (List.mem_cons_of_mem p hmem)]
    · rw [if_neg hmem]
      simp only [List.mem_cons, hmem, or_false, Prod.mk.eta]

/-- A bit outside the field of a pixel is as before the pixel was written (40_pixel_codec R134). -/
theorem readByte_bit_pixelWritten {x y : Nat} (c : Colour) {s : State} {a i : Nat} (hi : i < 8)
    (hother : pixelIndex s.fsWidth.toNat x y ≠ (8 * a + i) / 2) :
    ((pixelWritten x y c s).readByte a).getLsbD i = (s.readByte a).getLsbD i := by
  rw [readByte_pixelWritten]
  split
  · rename_i hbyte
    rw [pixelIndex_eq] at hother
    have heven := offOf_even s.fsWidth.toNat x y
    rw [setField_getLsbD _ _ _ _ hi]
    split
    · rfl
    · rw [if_neg (by omega)]
  · rfl

theorem readByte_bit_pixelsWritten {c : Colour} {l : List (Nat × Nat)} {s : State} {a i : Nat} (hi : i < 8)
    (hothers : ∀ p ∈ l, pixelIndex s.fsWidth.toNat p.1 p.2 ≠ (8 * a + i) / 2) :
    ((pixelsWritten c l s).readByte a).getLsbD i = (s.readByte a).getLsbD i := by
  induction l generalizing s with
  | nil => rfl
  | cons p l ih =>
    obtain ⟨hp, hothers⟩ := List.forall_mem_cons.mp hothers
    rw [pixelsWritten, ih (s := pixelWritten p.1 p.2 c s) hothers, readByte_bit_pixelWritten c hi hp]

/-! ### The pixels of an image -/

theorem mem_pixelList {w h : Nat} {p : Nat × Nat} : p ∈ pixelList w h ↔ p.1 < w ∧ p.2 < h := by
  obtain ⟨x, y⟩ := p
  simp [pixelList, and_comm]

/-- A pixel of an image has an index below the number of pixels. -/
theorem pixelIndex_lt {w h x y : Nat} (hx : x < w) (hy : y < h) : pixelIndex w x y < w * h := by
  have hrows : (y + 1) * w ≤ h * w := Nat.mul_le_mul_right w hy
  rw [Nat.mul_comm w h]
  unfold pixelIndex
  linarith [Nat.succ_mul y w]

/-- The pixels of an image are listed by rising index (44_panel_sequencer R260). -/
theorem pixelList_sorted (w h : Nat) :
    (pixelList w h).Pairwise fun p q => pixelIndex w p.1 p.2 < pixelIndex w q.1 q.2 := by
  refine List.pairwise_flatMap.mpr ⟨fun y _ => ?_, ?_⟩
  · refine List.pairwise_map.mpr (List.pairwise_lt_range.imp fun hlt => ?_)
    exact Nat.add_lt_add_left hlt _
  · refine List.pairwise_lt_range.imp fun {y y'} hlt p hp q hq => ?_
    obtain ⟨x, hx, rfl⟩ := List.mem_map.mp hp
    obtain ⟨x', _, rfl⟩ := List.mem_map.mp hq
    have hrows : (y + 1) * w ≤ y' * w := Nat.mul_le_mul_right w hlt
    have hcolumn := List.mem_range.mp hx
    unfold pixelIndex
    linarith [Nat.succ_mul y w]

theorem byteOf_mono {w x y x' y' : Nat} (h : pixelIndex w x y ≤ pixelIndex w x' y') :
    byteOf w x y ≤ byteOf w x' y' := by
  unfold byteOf
  omega

/-- The last pixel of an image lies in the last byte that the image needs (20_memory R61). -/
theorem byteOf_last {w h len : Nat} (hshort : len < bytesNeeded w h) :
    ∃ p ∈ pixelList w h, len ≤ byteOf w p.1 p.2 := by
  unfold bytesNeeded at hshort
  have hpixels : 0 < w * h := by omega
  have hw : 0 < w := Nat.pos_of_mul_pos_right hpixels
  have hh : 0 < h := Nat.pos_of_mul_pos_left hpixels
  refine ⟨(w - 1, h - 1), mem_pixelList.mpr ⟨Nat.sub_one_lt_of_lt hw, Nat.sub_one_lt_of_lt hh⟩, ?_⟩
  have hlast : pixelIndex w (w - 1) (h - 1) + 1 = w * h := by
    obtain ⟨h, rfl⟩ := Nat.exists_eq_add_of_lt hh
    unfold pixelIndex
    rw [Nat.zero_add, Nat.add_sub_cancel, Nat.mul_succ, Nat.mul_comm w h]
    omega
  change len ≤ byteOf w (w - 1) (h - 1)
  unfold byteOf
  omega

/-- A buffer too short for an image splits its pixels into those that it holds and, from the first that it does not hold
on, the others (44_panel_sequencer R260 c). -/
theorem pixelList_split {w h len : Nat} (hshort : len < bytesNeeded w h) :
    ∃ pre p post, pixelList w h = pre ++ p :: post ∧ len ≤ byteOf w p.1 p.2 ∧
      ∀ q, q ∈ pre ↔ q ∈ pixelList w h ∧ byteOf w q.1 q.2 < len := by
  obtain ⟨last, hlast, hbeyond⟩ := byteOf_last hshort
  have hfound : ((pixelList w h).find? fun q => decide (len ≤ byteOf w q.1 q.2)).isSome = true :=
    List.find?_isSome.mpr ⟨last, hlast, decide_eq_true hbeyond⟩
  obtain ⟨p, hp⟩ := Option.isSome_iff_exists.mp hfound
  obtain ⟨hpbeyond, pre, post, hsplit, hpre⟩ := List.find?_eq_some_iff_append.mp hp
  have hpbeyond : len ≤ byteOf w p.1 p.2 := of_decide_eq_true hpbeyond
  have hsorted := pixelList_sorted w h
  rw [hsplit, List.pairwise_append, List.pairwise_cons] at hsorted
  obtain ⟨_, ⟨hpost, _⟩, _⟩ := hsorted
  refine ⟨pre, p, post, hsplit, hpbeyond, fun q => ⟨fun hq => ⟨?_, ?_⟩, fun ⟨hq, hinside⟩ => ?_⟩⟩
  · rw [hsplit]
    exact List.mem_append_left _ hq
  · simpa using hpre q hq
  · rw [hsplit, List.mem_append, List.mem_cons] at hq
    obtain hq | rfl | hq := hq
    · exact hq
    · omega
    · have := byteOf_mono (Nat.le_of_lt (hpost q hq))
      omega

/-! ### The rows of a white image -/

theorem packBits_eq_zero (msbFirst : Bool) {bit : Nat → Bool} {n : Nat} (h : ∀ i, i < n → bit i = false) :
    packBits msbFirst bit n = 0 := by
  induction n with
  | zero => rfl
  | succ n ih =>
    rw [packBits, ih fun i hi => h i (Nat.lt_succ_of_lt hi), if_neg (by simp [h n (Nat.lt_succ_self n)])]
    rfl

/-- A row of white pixels has no bit set in the colour row. -/
theorem colorRow_white {s : State} {r : Nat} (hwhite : ∀ x, x < s.fsWidth.toNat → s.pixelCode x r = 0) :
    ∀ b ∈ s.colorRow r, b = 0 := by
  intro b hb
  obtain ⟨j, hj, rfl⟩ := List.mem_map.mp hb
  refine packBits_eq_zero _ fun i hi => ?_
  have hcolumn : 8 * j + i < s.fsWidth.toNat := by
    have := List.mem_range.mp hj
    unfold State.w8 at this
    omega
  rw [hwhite _ hcolumn]
  rfl

theorem coloredRows_white {s : State}
    (hwhite : ∀ x y, x < s.fsWidth.toNat → y < s.fsHeight.toNat → s.pixelCode x y = 0) : coloredRows s = 0 := by
  unfold coloredRows
  rw [List.length_eq_zero_iff, List.filter_eq_nil_iff]
  intro r hr
  rw [decide_eq_true_eq]
  rintro ⟨b, hb, hne⟩
  exact hne (colorRow_white (fun x hx => hwhite x r hx (List.mem_range.mp hr)) b hb)

/-! ### CLEAR -/

/-- CLEAR at its pixel loop, its op code in the latch (44_panel_sequencer R260; entry 10). -/
def clearing (s : State) : State := (s.begin 0x8).enter .localPixels

theorem exec_clear_noStore {s : State} (hvalid : s.fsValid = false) :
    exec .clear s = .next (s.finish Code.notConfigured 0) := by
  change runOutcome (startClear s) = _
  rw [startClear, if_pos hvalid, runOutcome_finish]

theorem exec_clear {s : State} (hvalid : s.fsValid = true) : exec .clear s = runOutcome (.next (clearing s)) := by
  change runOutcome (startClear s) = _
  rw [startClear, if_neg (by simp [hvalid])]
  rfl

/-- The pixel loop, and the preconditions of UPDATE or the abort behind it (44_panel_sequencer R260). -/
theorem sequencerStep_clearing {s t : State} {code : Code}
    (hloop : setPixels .white (pixelList s.fsWidth.toNat s.fsHeight.toNat) (clearing s) = (code, t)) :
    sequencerStep (clearing s) = if code = Code.ok then checkUpdate t else .next (t.abort code) := by
  have hloop : setPixels .white (pixelList (clearing s).fsWidth.toNat (clearing s).fsHeight.toNat) (clearing s) =
    (code, t) := hloop
  rw [sequencerStep_pixels rfl rfl, pixelStep, hloop]

/-- The pixel loop changes nothing but the buffer. -/
theorem clearing_loop_eq {s t : State} {code : Code}
    (hloop : setPixels .white (pixelList s.fsWidth.toNat s.fsHeight.toNat) (clearing s) = (code, t)) :
    t = clearing { s with buf := t.buf } := by
  have hframe := setPixels_frame .white (pixelList s.fsWidth.toNat s.fsHeight.toNat) (clearing s)
  rwa [hloop] at hframe

/-- A pixel that fails ends CLEAR with its code, the pixels before it written (44_panel_sequencer R260). -/
theorem exec_clear_fails {s t : State} {code : Code} (hvalid : s.fsValid = true)
    (hloop : setPixels .white (pixelList s.fsWidth.toNat s.fsHeight.toNat) (clearing s) = (code, t))
    (hcode : code ≠ Code.ok) :
    exec .clear s = .next (ended (latched { s with buf := t.buf } 8) code 0) := by
  have hstep := sequencerStep_clearing hloop
  rw [if_neg hcode] at hstep
  rw [exec_clear hvalid, runOutcome_step (by rintro ⟨⟩) rfl hstep rfl, clearing_loop_eq hloop]
  rfl

/-- How a run goes on behind a core step. -/
def runOn (fuel : Nat) : Outcome → Outcome
  | .next t => runSequencer fuel t
  | .fault f => .fault f
  | .refused r => .refused r

theorem runSequencer_succ {s : State} (fuel : Nat) (hbusy : s.seq.phase ≠ .idle) (hw : s.waiting = false) :
    runSequencer (fuel + 1) s = runOn fuel (sequencerStep s) := by
  rw [runSequencer, if_neg (by simp [hbusy, hw])]
  cases sequencerStep s <;> rfl

/-- The core steps that are left behind CLEAR's pixel loop are enough for its update. -/
theorem runOn_checkUpdate {s : State} {fuel : Nat} (hfuel : fuel + 1 = s.opFuel) :
    runOn fuel (checkUpdate (latched (s.begin 0x6) 8)) = mapNext (latched · 8) (exec .update s) := by
  rw [checkUpdate_latched, exec_update]
  obtain ⟨code, hcheck⟩ | hcheck | ⟨hready, hcheck⟩ := checkUpdate_cases (s.begin 0x6) <;> rw [hcheck]
  · rw [runOutcome_finish]
    exact runSequencer_done _ _ (.inl rfl)
  · rfl
  · have hop : (s.begin 0x6).latch.op ≠ 0x1 := (by decide : (0x6 : BitVec 4) ≠ 0x1)
    obtain ⟨t, ht⟩ := runUpdate_ends (s := s.begin 0x6) ⟨rfl, hready, hop⟩
    have hcalls : (possibleCalls (s.begin 0x6)).length + 2 ≤ fuel + 1 := hfuel ▸ possibleCalls_length_lt (s.begin 0x6)
    have hupdate : runOutcome (.next (s.begin 0x6).enterReset) = .next t :=
      ht _ (possibleCalls_length_succ_le (s.begin 0x6))
    have houtside : (s.begin 0x6).enterReset.outsideLocal := by simp [State.outsideLocal, Phase.code]
    rw [hupdate, mapNext, runOn,
      runSequencer_latched (s := (s.begin 0x6).enterReset) fuel hop (by decide) houtside, ht fuel (by omega)]

/-- With every pixel accepted CLEAR does what UPDATE of the white image does, with its own op code in the latch
(44_panel_sequencer R260). -/
theorem exec_clear_updates {s t : State} (hvalid : s.fsValid = true)
    (hloop : setPixels .white (pixelList s.fsWidth.toNat s.fsHeight.toNat) (clearing s) = (Code.ok, t)) :
    exec .clear s = mapNext (latched · 8) (exec .update { s with buf := t.buf }) := by
  have hfuel : 127 + 24 * s.fsHeight.toNat + 1 = s.opFuel := by
    unfold State.opFuel
    omega
  have hstep := sequencerStep_clearing hloop
  rw [if_pos rfl, clearing_loop_eq hloop] at hstep
  have hrun : exec .clear s = runOn (127 + 24 * s.fsHeight.toNat) (sequencerStep (clearing s)) := by
    rw [exec_clear hvalid, ← runSequencer_succ _ (by rintro ⟨⟩) rfl, hfuel]
    rfl
  rw [hrun, hstep, ← runOn_checkUpdate (s := { s with buf := t.buf }) hfuel]
  rfl

/-! ### The statements -/

/-- In CLEAR's pixel loop a pixel of the image is accepted where white is enabled and the buffer holds it. -/
theorem acceptsPixel_clearing {s : State} {p : Nat × Nat} (hvalid : s.fsValid = true)
    (hwhite : s.colorcap.getLsbD 0 = true) (hp : p ∈ pixelList s.fsWidth.toNat s.fsHeight.toNat)
    (hbyte : byteOf s.fsWidth.toNat p.1 p.2 < s.fsBytelen.toNat) : AcceptsPixel (clearing s) p.1 p.2 .white := by
  obtain ⟨hx, hy⟩ := mem_pixelList.mp hp
  exact ⟨hvalid, hx, hy, hwhite, hbyte⟩

/-- Settles O49: the check before the pixel loop, and the first pixel in it. -/
theorem clearChecks : Obligations.ClearChecks := by
  refine fun s => ⟨fun hvalid => exec_clear_noStore hvalid, fun hvalid hw hh hwhite => ?_⟩
  have hfirst : setPixel 0 0 .white (clearing s) = (Code.notAvailable, clearing s) :=
    setPixel_disabled hvalid hw hh hwhite
  obtain ⟨rest, hpixels⟩ : ∃ rest, pixelList s.fsWidth.toNat s.fsHeight.toNat = (0, 0) :: rest := by
    obtain ⟨w, hw⟩ := Nat.exists_eq_add_of_lt hw
    obtain ⟨h, hh⟩ := Nat.exists_eq_add_of_lt hh
    rw [hw, hh, Nat.zero_add, Nat.zero_add]
    exact ⟨_, by simp only [pixelList, List.range_succ_eq_map, List.flatMap_cons, List.map_cons, List.cons_append]; rfl⟩
  have hloop := setPixels_stop (p := (0, 0)) hfirst (by decide) rest
  rw [← hpixels] at hloop
  exact exec_clear_fails (t := clearing s) hvalid hloop (by decide)

/-- The pixels of CLEAR's loop that were written are white. -/
theorem pixelCode_cleared {s : State} {l : List (Nat × Nat)} {x y : Nat}
    (hl : ∀ p ∈ l, AcceptsPixel (clearing s) p.1 p.2 .white) (hmem : (x, y) ∈ l) :
    (pixelsWritten .white l (clearing s)).pixelCode x y = 0 := by
  rw [pixelCode_pixelsWritten y (fun p hp => (hl p hp).column) (hl _ hmem).column, if_pos hmem]
  rfl

/-- Settles O50: the loop stops at the first pixel beyond the buffer, and the pixels before it are those that the buffer
holds. -/
theorem clearStopsAtAShortBuffer : Obligations.ClearStopsAtAShortBuffer := by
  intro s hvalid hwhite hshort
  obtain ⟨pre, p, post, hpixels, hbeyond, hpre⟩ :=
    pixelList_split (w := s.fsWidth.toNat) (h := s.fsHeight.toNat) hshort
  have haccepted : ∀ q ∈ pre, AcceptsPixel (clearing s) q.1 q.2 .white := by
    intro q hq
    obtain ⟨hmem, hbyte⟩ := (hpre q).mp hq
    exact acceptsPixel_clearing hvalid hwhite hmem hbyte
  have hloop : setPixels .white (pixelList s.fsWidth.toNat s.fsHeight.toNat) (clearing s) =
      (Code.failure, pixelsWritten .white pre (clearing s)) := by
    have hp : p.1 < s.fsWidth.toNat ∧ p.2 < s.fsHeight.toNat := by
      rw [← mem_pixelList, hpixels]
      exact List.mem_append_cons_self
    rw [hpixels, setPixels_append haccepted]
    refine setPixels_stop ?_ (by decide) post
    rw [pixelsWritten_frame]
    exact setPixel_notStored hvalid hp.1 hp.2 hwhite hbeyond
  refine ⟨_, exec_clear_fails hvalid hloop (by decide), rfl, fun x y hx hy hbyte => ?_, fun a ha => ?_⟩
  · have hmem : (x, y) ∈ pre := (hpre (x, y)).mpr ⟨mem_pixelList.mpr ⟨hx, hy⟩, hbyte⟩
    exact (congrArg (State.pixelCode · x y) (clearing_loop_eq hloop)).symm.trans (pixelCode_cleared haccepted hmem)
  · refine BitVec.eq_of_getLsbD_eq fun i hi => readByte_bit_pixelsWritten (s := clearing s) hi fun q hq => ?_
    obtain ⟨_, hbyte⟩ := (hpre q).mp hq
    change pixelIndex s.fsWidth.toNat q.1 q.2 ≠ _
    unfold byteOf at hbyte
    omega

/-- `s` with every pixel of its image white: what CLEAR updates (44_panel_sequencer R260). -/
def whitened (s : State) : State :=
  { s with buf := (pixelsWritten .white (pixelList s.fsWidth.toNat s.fsHeight.toNat) (clearing s)).buf }

section Whitened

variable {s : State} (hvalid : s.fsValid = true) (hwhite : s.colorcap.getLsbD 0 = true)
  (hbytes : (s.fsWidth.toNat * s.fsHeight.toNat * 2 + 7) / 8 ≤ s.fsBytelen.toNat)

include hvalid hwhite hbytes

/-- A buffer long enough holds every pixel. -/
theorem acceptsPixel_whitened : ∀ p ∈ pixelList s.fsWidth.toNat s.fsHeight.toNat,
    AcceptsPixel (clearing s) p.1 p.2 .white := by
  intro p hp
  obtain ⟨hx, hy⟩ := mem_pixelList.mp hp
  exact acceptsPixel_clearing hvalid hwhite hp (Nat.lt_of_lt_of_le (byteOf_lt hx hy) hbytes)

theorem exec_clear_whitened : exec .clear s = mapNext (latched · 8) (exec .update (whitened s)) :=
  exec_clear_updates hvalid (setPixels_accepted (acceptsPixel_whitened hvalid hwhite hbytes))

theorem pixelCode_whitened {x y : Nat} (hx : x < s.fsWidth.toNat) (hy : y < s.fsHeight.toNat) :
    (whitened s).pixelCode x y = 0 := by
  have haccepted := acceptsPixel_whitened hvalid hwhite hbytes
  exact (congrArg (State.pixelCode · x y) (clearing_loop_eq (setPixels_accepted haccepted))).symm.trans
    (pixelCode_cleared haccepted (mem_pixelList.mpr ⟨hx, hy⟩))

end Whitened

/-- A bit that belongs to no pixel stays (20_memory R68). -/
theorem readByte_bit_whitened {s : State} {a i : Nat} (hi : i < 8)
    (hbeyond : s.fsWidth.toNat * s.fsHeight.toNat * 2 ≤ 8 * a + i) :
    ((whitened s).readByte a).getLsbD i = (s.readByte a).getLsbD i := by
  refine readByte_bit_pixelsWritten (s := clearing s) hi fun p hp => ?_
  obtain ⟨hx, hy⟩ := mem_pixelList.mp hp
  have hindex : pixelIndex (clearing s).fsWidth.toNat p.1 p.2 < s.fsWidth.toNat * s.fsHeight.toNat :=
    pixelIndex_lt hx hy
  omega

/-- The calls of an update of a white image: no row has a colour row (44_panel_sequencer R249, R259). -/
theorem updateScript_length_white {s : State}
    (hwhite : ∀ x y, x < s.fsWidth.toNat → y < s.fsHeight.toNat → s.pixelCode x y = 0) :
    (updateScript s).length = 7 + (initScript s).length + 8 + 12 * s.fsHeight.toNat + 12 := by
  rw [updateScript_length, initScript_length, coloredRows_white hwhite]
  omega

/-- Settles O48: every pixel is accepted, so CLEAR does what UPDATE of the white image does. -/
theorem clearWhitensAndUpdates : Obligations.ClearWhitensAndUpdates := by
  intro s hvalid hwhite hbytes
  have hclear := exec_clear_whitened hvalid hwhite hbytes
  have hpixels : ∀ x y, x < s.fsWidth.toNat → y < s.fsHeight.toNat → (whitened s).pixelCode x y = 0 :=
    fun x y hx hy => pixelCode_whitened hvalid hwhite hbytes hx hy
  refine ⟨whitened s, rfl, hpixels, fun a i hi hbeyond => readByte_bit_whitened hi hbeyond,
    fun t ht => ⟨?_, fun a => ?_⟩, fun r hr => ?_, fun rest h hframe hanswers => ?_⟩
  · rw [hclear, ht, mapNext]
  · rw [show t = _ from updateNeverWritesTheStore (whitened s) t ht]
    rfl
  · rw [hclear, hr, mapNext]
  · have hlength : (updateScript (whitened s)).length =
        7 + (initScript s).length + 8 + 12 * s.fsHeight.toNat + 12 := updateScript_length_white hpixels
    have hupdate := updateRunsTheWholeScript (whitened s) rest h hframe (by rw [hlength]; exact hanswers)
    rw [hclear, hupdate]
    rfl

end Sys2Proof.Machine
end

section
/-! PROOFS. The registers and the buffer as the host reads and writes them (45_session_and_host_port R280 to R283). -/

namespace Sys2Proof.Machine

open Sys2Proof.Claims

/-! ### CSR_READ -/

/-- The reserved addresses of the register map (10_state R26). -/
theorem csrValue_reserved (s : State) {reg : RegAddr} (h : 0xB ≤ reg.toNat) : s.csrValue reg = none := by
  have hcases : ∀ reg : RegAddr, 0xB ≤ reg.toNat →
      reg = 0xB ∨ reg = 0xC ∨ reg = 0xD ∨ reg = 0xE ∨ reg = 0xF := by decide
  obtain rfl | rfl | rfl | rfl | rfl := hcases reg h <;> rfl

theorem exec_csrRead_of_value {s : State} {reg : RegAddr} {data : DataWord} (h : s.csrValue reg = some data) :
    exec (.csrRead reg) s = .next (ended s 0 data) := by
  change execCsrRead reg s = _
  rw [execCsrRead, h]
  rfl

theorem exec_csrRead_reserved (s : State) {reg : RegAddr} (h : 0xB ≤ reg.toNat) :
    exec (.csrRead reg) s = .next (ended s 5 0) := by
  change execCsrRead reg s = _
  rw [execCsrRead, csrValue_reserved s h]
  rfl

/-- Settles O11: each address by the value it has in the register map, the reserved ones having none. -/
theorem csrReadAnswers : Obligations.CsrReadAnswers := fun s =>
  ⟨exec_csrRead_of_value rfl, exec_csrRead_of_value rfl, exec_csrRead_of_value rfl, exec_csrRead_of_value rfl,
    exec_csrRead_of_value rfl, exec_csrRead_of_value rfl, exec_csrRead_of_value rfl, exec_csrRead_of_value rfl,
    exec_csrRead_of_value rfl, exec_csrRead_of_value rfl, exec_csrRead_of_value rfl,
    fun _ h => ⟨0, exec_csrRead_reserved s h⟩⟩

/-! ### CSR_WRITE, a check at a time -/

/-- A register that CSR_WRITE may store to: one of the first nine, the dimension registers only without a Frame Store
(10_state R26, R30). -/
structure CsrWritable (s : State) (reg : RegAddr) : Prop where
  below : reg.toNat < 9
  unlocked : dimensionReg reg = true → s.fsValid = false

theorem readOnlyReg_iff : ∀ reg : RegAddr, readOnlyReg reg = true ↔ 9 ≤ reg.toNat ∧ reg.toNat < 0xB := by decide

theorem dimensionReg_below : ∀ reg : RegAddr, dimensionReg reg = true → reg.toNat < 9 := by decide

theorem exec_csrWrite_reserved (s : State) {reg : RegAddr} (v : DataWord) (h : 0xB ≤ reg.toNat) :
    exec (.csrWrite reg v) s = .next (ended s 5 0) := if_pos h

theorem exec_csrWrite_readOnly (s : State) {reg : RegAddr} (v : DataWord) (h : readOnlyReg reg = true) :
    exec (.csrWrite reg v) s = .next (ended s 3 0) := by
  obtain ⟨_, hbelow⟩ := (readOnlyReg_iff reg).mp h
  exact (if_neg (Nat.not_le.mpr hbelow)).trans (if_pos h)

/-- Past the first two checks CSR_WRITE is its third. -/
theorem exec_csrWrite_below (s : State) {reg : RegAddr} (v : DataWord) (h : reg.toNat < 9) :
    exec (.csrWrite reg v) s =
      if dimensionReg reg && s.fsValid then .next (ended s 3 0) else .next (ended (s.setCsr reg v) 0 0) := by
  have hwritable : ¬ readOnlyReg reg = true := by
    rw [readOnlyReg_iff]
    omega
  exact (if_neg (by omega)).trans (if_neg hwritable)

theorem exec_csrWrite_locked {s : State} {reg : RegAddr} (v : DataWord) (hreg : dimensionReg reg = true)
    (hvalid : s.fsValid = true) : exec (.csrWrite reg v) s = .next (ended s 3 0) := by
  rw [exec_csrWrite_below s v (dimensionReg_below reg hreg), if_pos (by simp [hreg, hvalid])]

theorem exec_csrWrite_stores {s : State} {reg : RegAddr} (v : DataWord) (h : CsrWritable s reg) :
    exec (.csrWrite reg v) s = .next (ended (s.setCsr reg v) 0 0) := by
  rw [exec_csrWrite_below s v h.below, if_neg]
  simpa using h.unlocked

/-- A CSR_WRITE answered OK passed the checks and stored the value. -/
theorem exec_csrWrite_answered_ok {s t : State} {reg : RegAddr} {v : DataWord}
    (h : exec (.csrWrite reg v) s = .next t) (hok : t.result = 0) :
    CsrWritable s reg ∧ t = ended (s.setCsr reg v) 0 0 := by
  have hne3 : (3 : Code) ≠ 0 := by decide
  have hne5 : (5 : Code) ≠ 0 := by decide
  by_cases hreserved : 0xB ≤ reg.toNat
  · rw [exec_csrWrite_reserved s v hreserved] at h
    cases h
    exact absurd hok hne5
  · by_cases hreadOnly : readOnlyReg reg = true
    · rw [exec_csrWrite_readOnly s v hreadOnly] at h
      cases h
      exact absurd hok hne3
    · have hbelow : reg.toNat < 9 := by
        rw [readOnlyReg_iff] at hreadOnly
        omega
      rw [exec_csrWrite_below s v hbelow] at h
      split at h <;> cases h
      · exact absurd hok hne3
      · rename_i hlock
        exact ⟨⟨hbelow, by simpa using hlock⟩, rfl⟩

/-- Settles O13: the registers that are not locked store, and each check answers its code. -/
theorem csrWriteStores : Obligations.CsrWriteStores := by
  intro s v
  have hfree (reg : RegAddr) (hbelow : reg.toNat < 9) (hdim : dimensionReg reg = false) : CsrWritable s reg :=
    ⟨hbelow, fun h => absurd h (by simp [hdim])⟩
  refine ⟨exec_csrWrite_stores v (hfree _ (by decide) rfl), exec_csrWrite_stores v (hfree _ (by decide) rfl),
    exec_csrWrite_stores v (hfree _ (by decide) rfl), exec_csrWrite_stores v (hfree _ (by decide) rfl),
    exec_csrWrite_stores v (hfree _ (by decide) rfl), exec_csrWrite_stores v (hfree _ (by decide) rfl),
    exec_csrWrite_readOnly s v rfl, exec_csrWrite_readOnly s v rfl, fun hvalid => ?_, fun hvalid reg hreg => ?_,
    fun reg h => exec_csrWrite_reserved s v h⟩
  · exact ⟨exec_csrWrite_stores v ⟨by decide, fun _ => hvalid⟩, exec_csrWrite_stores v ⟨by decide, fun _ => hvalid⟩,
      exec_csrWrite_stores v ⟨by decide, fun _ => hvalid⟩⟩
  · refine exec_csrWrite_locked v ?_ hvalid
    obtain rfl | rfl | rfl := hreg <;> rfl

/-! ### A register read after a write -/

/-- The bits of a register that CSR_WRITE may store to, by its width (10_state R26). -/
def csrMask (reg : RegAddr) : DataWord :=
  if reg = 0x0 ∨ reg = 0x2 then 0x3 else if reg = 0x1 then 0xF
  else if reg = 0x3 ∨ reg = 0x4 ∨ reg = 0x5 then 0xFFFF else 0xFFFFFFFF

/-- Cut to a width and zero-extended again, a data word keeps its low bits (45_session_and_host_port R280, R281). -/
theorem setWidth_setWidth_eq_and (k : Nat) (v : DataWord) :
    (v.setWidth k).setWidth 32 = v &&& BitVec.ofNat 32 (2 ^ k - 1) := by
  apply BitVec.eq_of_getLsbD_eq
  intro i hi
  simp only [BitVec.getLsbD_setWidth, BitVec.getLsbD_and, BitVec.getLsbD_ofNat, Nat.testBit_two_pow_sub_one, hi,
    decide_true, Bool.true_and]
  exact Bool.and_comm _ _

/-- The nine registers that CSR_WRITE may store to. -/
theorem regAddr_below_cases : ∀ reg : RegAddr, reg.toNat < 9 →
    reg = 0#4 ∨ reg = 1#4 ∨ reg = 2#4 ∨ reg = 3#4 ∨ reg = 4#4 ∨ reg = 5#4 ∨ reg = 6#4 ∨ reg = 7#4 ∨ reg = 8#4 := by
  decide

theorem csrValue_setCsr_same (s : State) {reg : RegAddr} (v : DataWord) (h : reg.toNat < 9) :
    (s.setCsr reg v).csrValue reg = some (v &&& csrMask reg) := by
  have hlow (k : Nat) : some ((v.setWidth k).setWidth 32) = some (v &&& BitVec.ofNat 32 (2 ^ k - 1)) :=
    congrArg some (setWidth_setWidth_eq_and k v)
  obtain rfl | rfl | rfl | rfl | rfl | rfl | rfl | rfl | rfl := regAddr_below_cases reg h
  · exact hlow 2
  · exact hlow 4
  · exact hlow 2
  · exact hlow 16
  · exact hlow 16
  · exact hlow 16
  · exact hlow 32
  · exact hlow 32
  · exact hlow 32

theorem csrValue_setCsr_other (s : State) {reg other : RegAddr} (v : DataWord) (h : reg.toNat < 9)
    (hother : other ≠ reg) : (s.setCsr reg v).csrValue other = s.csrValue other := by
  obtain rfl | rfl | rfl | rfl | rfl | rfl | rfl | rfl | rfl := regAddr_below_cases reg h <;>
    simp [State.csrValue, State.setCsr, State.statusWord, hother]

/-- The end of an operation writes no register but RESULT (45_session_and_host_port R270). -/
theorem csrValue_ended (s : State) (code : Code) (data : DataWord) {reg : RegAddr} (h : reg ≠ 0xA) :
    (ended s code data).csrValue reg = s.csrValue reg := by
  have hresult : reg ≠ 10#4 := h
  simp [State.csrValue, ended, State.statusWord, hresult]

/-- Settles O14: the write stored the value, and the register map reads it back. -/
theorem csrWriteThenRead : Obligations.CsrWriteThenRead := by
  intro s t u reg v hwrite hok hread
  obtain ⟨⟨hbelow, _⟩, rfl⟩ := exec_csrWrite_answered_ok hwrite hok
  have hresult : reg ≠ 0xA := by
    rintro rfl
    exact absurd hbelow (by decide)
  have hvalue : (ended (s.setCsr reg v) 0 0).csrValue reg = some (v &&& csrMask reg) :=
    (csrValue_ended _ 0 0 hresult).trans (csrValue_setCsr_same s v hbelow)
  rw [exec_csrRead_of_value hvalue] at hread
  cases hread
  exact ⟨rfl, fun other hother hnotResult =>
    (csrValue_ended _ 0 0 hnotResult).trans (csrValue_setCsr_other s v hbelow hother)⟩

/-! ### FS_RD and FS_WR -/

/-- FS_RD inside the buffer RAM answers the byte that the host finds (45_session_and_host_port R282). -/
theorem exec_fsRd_inside (s : State) {addr : Half} (h : addr.toNat < 65535) :
    exec (.fsRd addr) s = .next (ended s 0 ((s.hostByte addr.toNat).setWidth 32)) := if_neg (Nat.not_le.mpr h)

/-- Settles O16: which byte the host finds is a matter of the Frame Store's length. -/
theorem fsRdAnswersTheByte : Obligations.FsRdAnswersTheByte := by
  refine fun s addr => ⟨fun haddr hstored => ?_, fun haddr _ _ => ⟨_, exec_fsRd_inside s haddr⟩,
    fun haddr => ⟨0, if_pos haddr⟩⟩
  have hbyte : s.hostByte addr.toNat = s.readByte addr.toNat := by
    refine if_neg fun ⟨hvalid, hbeyond⟩ => ?_
    obtain hnone | hinside := hstored
    · simp [hvalid] at hnone
    · omega
  rw [exec_fsRd_inside s haddr, hbyte]

theorem exec_fsWr_present {s : State} (addr : Half) (byte : Byte) (hvalid : s.fsValid = true) :
    exec (.fsWr addr byte) s = .next (ended s 3 0) := if_pos hvalid

theorem exec_fsWr_outside {s : State} {addr : Half} (byte : Byte) (hvalid : s.fsValid = false)
    (haddr : 65535 ≤ addr.toNat) : exec (.fsWr addr byte) s = .next (ended s 5 0) :=
  (if_neg (by simp [hvalid])).trans (if_pos haddr)

theorem exec_fsWr_inside {s : State} {addr : Half} (byte : Byte) (hvalid : s.fsValid = false)
    (haddr : addr.toNat < 65535) :
    exec (.fsWr addr byte) s = .next (ended { s with buf := s.buf.write addr.toNat byte } 0 0) :=
  (if_neg (by simp [hvalid])).trans (if_neg (Nat.not_le.mpr haddr))

/-- Settles O17: FS_WR is one write to the buffer, or the code of the check that stands before it. -/
theorem fsWrStoresTheByte : Obligations.FsWrStoresTheByte := fun s addr byte =>
  ⟨fun hvalid haddr => ⟨_, exec_fsWr_inside byte hvalid haddr, rfl, s.buf.read_write_same addr.toNat byte,
      fun _ hother => s.buf.read_write_other byte hother⟩,
    fun hvalid haddr => exec_fsWr_outside byte hvalid haddr, fun hvalid => exec_fsWr_present addr byte hvalid⟩

end Sys2Proof.Machine
end

section
/-! PROOFS. The host port: no request is accepted while an operation is in progress, and the steps from an accepted one
on do what its operation does (45_session_and_host_port R270, R271). -/

namespace Sys2Proof.Machine

open Sys2Proof.Claims

/-! ### No request and no latch -/

/-- From `s` to `t` no request was taken and the latch was not written. -/
structure KeepsPort (s t : State) : Prop where
  requests : t.requests = s.requests
  latch : t.latch = s.latch

theorem KeepsPort.trans {s t u : State} (h : KeepsPort s t) (h' : KeepsPort t u) : KeepsPort s u :=
  ⟨h'.requests.trans h.requests, h'.latch.trans h.latch⟩

/-- The sequencer's fields do not reach the port. -/
theorem SequencerFrame.keepsPort {s t : State} (h : SequencerFrame s t) : KeepsPort s t := by
  rw [show t = _ from h]
  exact ⟨rfl, rfl⟩

/-- To write the op code that the latch holds already changes nothing of it (entry 10). -/
theorem begin_keepsPort {s : State} {op : BitVec 4} (h : s.latch.op = op) : KeepsPort s (s.begin op) := by
  subst h
  exact ⟨rfl, rfl⟩

theorem enter_keepsPort (s : State) (ph : Phase) : KeepsPort s (s.enter ph) := ⟨rfl, rfl⟩

theorem setCsr_keepsPort (s : State) (reg : RegAddr) (v : DataWord) : KeepsPort s (s.setCsr reg v) := by
  unfold State.setCsr
  constructor <;> simp only [apply_ite State.requests, apply_ite State.latch, ite_self]

theorem release_keepsPort (s : State) : KeepsPort s (release s) := by
  unfold release
  split <;> exact ⟨rfl, rfl⟩

/-! ### A step in an operation in progress -/

theorem fillStep_keepsPort {s t : State} (h : fillStep s = .next t) : KeepsPort s t := by
  unfold fillStep at h
  split at h
  · cases h
  · split at h <;> cases h <;> exact ⟨rfl, rfl⟩

theorem pixelStep_keepsPort {s t : State} (h : pixelStep s = .next t) : KeepsPort s t := by
  have hloop := setPixels_frame .white (pixelList s.fsWidth.toNat s.fsHeight.toNat) s
  unfold pixelStep at h
  split at h
  rename_i code u heq
  rw [heq] at hloop
  have hpixels : KeepsPort s u := by
    rw [show u = _ from hloop]
    exact ⟨rfl, rfl⟩
  split at h
  · exact hpixels.trans (SequencerFrame.checkUpdate h).keepsPort
  · cases h
    exact hpixels.trans (SequencerFrame.abort u code).keepsPort

theorem sequencerStep_keepsPort {s t : State} (h : sequencerStep s = .next t) : KeepsPort s t := by
  cases hw : s.waiting with
  | true =>
    rw [sequencerStep_waiting hw] at h
    cases h
    exact (SequencerFrame.resumeCall s).keepsPort
  | false =>
    by_cases hfill : s.seq.phase = .localFill
    · rw [sequencerStep_fill hw hfill] at h
      exact fillStep_keepsPort h
    · by_cases hpixels : s.seq.phase = .localPixels
      · rw [sequencerStep_pixels hw hpixels] at h
        exact pixelStep_keepsPort h
      · rw [sequencerStep_callStep hw hfill hpixels] at h
        exact (SequencerFrame.callStep h).keepsPort

/-- Settles O8: by the kind of step, an answer, local work, or a call. -/
theorem busyPortKeepsRequests : Obligations.BusyPortKeepsRequests := by
  refine ⟨fun s t hbusy h => ?_, fun s hidle hnone => ?_⟩
  · rw [step_busy hbusy] at h
    exact ⟨(sequencerStep_keepsPort h).requests, (sequencerStep_keepsPort h).latch⟩
  · rw [step, if_pos hidle, hnone]

/-! ### Operations of one internal state change -/

/-- An outcome of `s` that ends the operation, with the port as it is in `s`. -/
def Finishes (s : State) (o : Outcome) : Prop :=
  ∃ (u : State) (code : Code) (data : DataWord), o = .next (u.finish code data) ∧ KeepsPort s u

theorem Finishes.of_keepsPort {s u : State} (h : KeepsPort s u) (code : Code) (data : DataWord) :
    Finishes s (.next (u.finish code data)) := ⟨u, code, data, rfl, h⟩

theorem Finishes.same (s : State) (code : Code) (data : DataWord) : Finishes s (.next (s.finish code data)) :=
  .of_keepsPort ⟨rfl, rfl⟩ code data

/-- A host operation of one internal state change ends in it (10_state R20). -/
theorem exec_finishes {i : Instr} {s : State} (hhost : i.panelCmd? = none) (hshort : firstStep? i s = none) :
    Finishes s (exec i s) := by
  cases i <;> cases hhost <;> cases hshort
  case teardown =>
    have hrelease := release_keepsPort s
    exact .of_keepsPort (u := { release s with activeValid := false }) ⟨hrelease.requests, hrelease.latch⟩ Code.ok 0
  case fsAttach =>
    change Finishes s (execFsAttach s)
    unfold execFsAttach
    split
    · exact .same s _ 0
    · split
      · exact .same s _ 0
      · exact .of_keepsPort (s := s) (u := { s with fsValid := true, fsExternal := true }) ⟨rfl, rfl⟩ Code.ok 0
  case setPixel x y c =>
    have hpixel : KeepsPort s (setPixel x.toNat y.toNat c s).2 := by
      obtain ⟨h, _⟩ | haccepted := setPixel_failed_or_accepted x.toNat y.toNat c s
      · rw [h]
        exact ⟨rfl, rfl⟩
      · rw [setPixel_accepted haccepted]
        exact ⟨rfl, rfl⟩
    exact .of_keepsPort hpixel _ 0
  case csrRead reg =>
    change Finishes s (execCsrRead reg s)
    unfold execCsrRead
    split <;> exact .same s _ _
  case csrWrite reg v =>
    change Finishes s (execCsrWrite reg v s)
    unfold execCsrWrite
    split
    · exact .same s _ 0
    · split
      · exact .same s _ 0
      · split
        · exact .same s _ 0
        · exact .of_keepsPort (setCsr_keepsPort s reg v) Code.ok 0
  case fsRd a =>
    change Finishes s (execFsRd a s)
    unfold execFsRd
    split <;> exact .same s _ _
  case fsWr a b =>
    change Finishes s (execFsWr a b s)
    unfold execFsWr
    split
    · exact .same s _ 0
    · split
      · exact .same s _ 0
      · exact .of_keepsPort (s := s) (u := { s with buf := s.buf.write a.toNat b }) ⟨rfl, rfl⟩ Code.ok 0
  case reserved0 | reservedD | reservedE | reservedF => exact .same s Code.notAvailable 0

/-! ### Operations of more than one core step -/

/-- Such an operation is its first core step and the run behind it. -/
theorem exec_of_firstStep? {i : Instr} {s : State} {o : Outcome} (h : firstStep? i s = some o) :
    exec i s = runOutcome o := by
  cases i <;> cases h <;> rfl

theorem firstStep?_eq_none {i : Instr} (h : ¬ longOperation i) (s : State) : firstStep? i s = none := by
  cases i
  case setup => exact absurd (.inl rfl) h
  case allocate => exact absurd (.inr (.inl rfl)) h
  case update => exact absurd (.inr (.inr (.inl rfl))) h
  case updateByMode m => exact absurd (.inr (.inr (.inr (.inl ⟨m, rfl⟩)))) h
  case clear => exact absurd (.inr (.inr (.inr (.inr rfl)))) h
  all_goals rfl

/-- The op code of a request word is that of the operation it asks for (30_encoding R92). -/
theorem op_of_decodeRequest {w : RequestWord} {i : Instr} {op sub : BitVec 4} {y x : Half} (h : decodeRequest w = i)
    (hencode : encode Config.t0 i = .request (requestWord op sub y x)) : RequestWord.op w = op := by
  subst h
  rw [encode_decodeRequest] at hencode
  have hclean := congrArg RequestWord.op (Encoded.request.inj hencode)
  rwa [cleanRequest, requestWord_op, requestWord_op] at hclean

/-- With its own word in the latch the first core step of such an operation keeps the latch (entry 10). -/
theorem firstStep?_keepsPort {w : RequestWord} {i : Instr} {s t : State} (hw : decodeRequest w = i)
    (hop : s.latch.op = RequestWord.op w) (h : firstStep? i s = some (.next t)) : KeepsPort s t := by
  cases i <;> simp only [firstStep?, reduceCtorEq, Option.some.injEq] at h
  case setup =>
    cases h
    exact (begin_keepsPort (hop.trans (op_of_decodeRequest hw rfl))).trans (enter_keepsPort _ .localPins)
  case allocate =>
    obtain ⟨_, hs⟩ | ⟨_, _, hs⟩ | ⟨_, _, hs⟩ := startAllocate_cases s <;> rw [hs] at h <;> cases h
    · exact ⟨rfl, rfl⟩
    · exact ⟨rfl, rfl⟩
    · exact (begin_keepsPort (hop.trans (op_of_decodeRequest hw rfl))).trans (enter_keepsPort _ .localFill)
  case update =>
    exact (begin_keepsPort (hop.trans (op_of_decodeRequest hw rfl))).trans (SequencerFrame.checkUpdate h).keepsPort
  case updateByMode m =>
    unfold startUpdateByMode at h
    split at h
    · exact (begin_keepsPort (hop.trans (op_of_decodeRequest hw rfl))).trans (SequencerFrame.checkUpdate h).keepsPort
    · cases h
      exact ⟨rfl, rfl⟩
  case clear =>
    unfold startClear at h
    split at h <;> cases h
    · exact ⟨rfl, rfl⟩
    · exact (begin_keepsPort (hop.trans (op_of_decodeRequest hw rfl))).trans (enter_keepsPort _ .localPixels)

/-! ### The acceptance of a request -/

/-- An idle core with a request at hand accepts it and makes the first core step of its operation
(45_session_and_host_port R270). -/
theorem step_accept {s : State} {w : RequestWord} {rest : List RequestWord} (hidle : s.seq.phase = .idle)
    (hrequests : s.requests = w :: rest) : step s = startRequest (decodeRequest w) (s.accept w rest) := by
  rw [step, if_pos hidle, hrequests]

theorem startRequest_short {i : Instr} {s : State} (h : firstStep? i s = none) : startRequest i s = exec i s := by
  rw [startRequest, h]

theorem startRequest_long {i : Instr} {s : State} {o : Outcome} (h : firstStep? i s = some o) :
    startRequest i s = o := by
  rw [startRequest, h]

theorem startRequest_keepsPort {w : RequestWord} {s t : State} (hop : s.latch.op = RequestWord.op w)
    (h : startRequest (decodeRequest w) s = .next t) : KeepsPort s t := by
  cases hfirst : firstStep? (decodeRequest w) s with
  | some o =>
    rw [startRequest_long hfirst] at h
    exact firstStep?_keepsPort rfl hop (hfirst.trans (congrArg some h))
  | none =>
    obtain ⟨u, code, data, hexec, hport⟩ := exec_finishes (decodeRequest_panelCmd? w) hfirst
    rw [startRequest_short hfirst, hexec] at h
    cases h
    exact ⟨hport.requests, hport.latch⟩

theorem run_one (s : State) : Host.Core.run Sys2Proof.core 1 s = step s := by
  cases h : step s with
  | next t => exact run_next 0 h
  | fault f => exact run_fault 0 h
  | refused r => exact run_refused 0 h

/-- A core step and what the sequencer does behind it are a run of the machine. -/
theorem exists_run_eq_runOutcome (s : State) :
    ∃ n, 1 ≤ n ∧ Host.Core.run Sys2Proof.core n s = runOutcome (step s) := by
  cases h : step s with
  | next t =>
    obtain ⟨n, _, hrun⟩ := runSequencer_is_run t.opFuel t
    exact ⟨n + 1, Nat.le_add_left 1 n, (run_next n h).trans hrun⟩
  | fault f => exact ⟨1, Nat.le_refl 1, run_fault 0 h⟩
  | refused r => exact ⟨1, Nat.le_refl 1, run_refused 0 h⟩

/-- Settles O6: the step is the first core step of the operation, or the whole of it. -/
theorem stepRunsTheRequest : Obligations.StepRunsTheRequest := by
  intro s s' w rest hidle hrequests hs'
  obtain rfl : s' = s.accept w rest := hs'
  have hstep := step_accept hidle hrequests
  refine ⟨fun hshort => ?_, ?_, fun t ht => ?_⟩
  · rw [hstep, startRequest_short (firstStep?_eq_none hshort _)]
  · cases hfirst : firstStep? (decodeRequest w) (s.accept w rest) with
    | some o =>
      rw [exec_of_firstStep? hfirst, ← startRequest_long hfirst, ← hstep]
      exact exists_run_eq_runOutcome s
    | none =>
      rw [← startRequest_short hfirst, ← hstep]
      exact ⟨1, Nat.le_refl 1, run_one s⟩
  · obtain ⟨htrace, hanswers⟩ := (step_idle_local hidle).madeNoCall ht
    rw [hstep] at ht
    obtain ⟨hrest, hlatch⟩ := startRequest_keepsPort (s := s.accept w rest) rfl ht
    exact ⟨htrace, hanswers, hrest, by rw [hlatch], by rw [hlatch], by rw [hlatch], by rw [hlatch]⟩

end Sys2Proof.Machine
end

section
/-! PROOFS. SETUP: its pin configuration, the checks and the zero fill of ALLOCATE, and its Reset phase
(45_session_and_host_port R274 to R277, 60_exceptions R312). -/

namespace Sys2Proof.Machine

open Sys2Proof.Claims

/-! ### The pin configuration -/

/-- SETUP at its first call, its op code in the latch (45_session_and_host_port R274; entry 10). -/
def settingUp (s : State) : State := (s.begin 0x1).enter .localPins

theorem phaseCalls_settingUp (s : State) : phaseCalls (settingUp s) = setupScript := rfl

/-- SETUP makes its first five calls as one script, and goes on behind them where all were answered OK. -/
theorem exec_setup (s : State) :
    exec .setup s = goOnEnd (123 + 24 * s.fsHeight.toNat) (runCalls setupScript (settingUp s)) := by
  have hfuel : s.opFuel = (phaseCalls (settingUp s)).length + (123 + 24 * s.fsHeight.toNat) := by
    change 128 + 24 * s.fsHeight.toNat = 5 + (123 + 24 * s.fsHeight.toNat)
    omega
  have hnoSend (c : PanelCmd) : Item.send c ∉ phaseItems (settingUp s) := by
    change Item.send c ∉ setupItems
    simp [setupItems]
  change runSequencer s.opFuel (settingUp s) = _
  rw [hfuel, runSequencer_phase (settingUp s) nofun rfl rfl fun c hc => absurd hc (hnoSend c), phaseCalls_settingUp]

/-- The first of the five calls that is not answered OK ends SETUP outside the Reset phase (60_exceptions R312). -/
theorem exec_setup_fails {s : State} {done : List Call} {call : Call} {after : List Call} {a : Code} {rest : List Code}
    (hcalls : setupScript = done ++ call :: after) (ha : a ≠ 0) (hanswers : s.answers = oks done.length (a :: rest)) :
    exec .setup s = .next (afterRun (latched s 1) (done ++ [call]) rest s.pstate a) := by
  rw [exec_setup, hcalls, runCalls_fails done call after (settingUp s) a rest hanswers ha,
    abort_afterCalls_eq_afterRun]
  rfl

/-- SETUP behind its first five calls, all answered OK. -/
def pinsSet (s : State) (rest : List Code) : State :=
  { settingUp s with trace := s.trace ++ setupScript.map fun c => ⟨c, s.ctx⟩, answers := rest }

theorem exec_setup_pins {s : State} {rest : List Code} (hanswers : s.answers = oks 5 rest) :
    exec .setup s = runSequencer (123 + 24 * s.fsHeight.toNat) (afterLast (pinsSet s rest)) := by
  rw [exec_setup, runCalls_ok setupScript (settingUp s) rest hanswers, goOnEnd,
    phaseEnd_afterCalls (settingUp s) setupScript rest nofun nofun nofun]
  rfl

/-! ### The Frame Store -/

/-- `b` is what SETUP of `s` resets the panel for: `s` with the Frame Store there is, or with one made for the profile
of its product (45_session_and_host_port R274, R277). -/
inductive OpensStore (s : State) : State → Prop where
  | kept (hvalid : s.fsValid = true) : OpensStore s (s.begin 0x1)
  | made (hvalid : s.fsValid = false) {w h : Nat} (hp : profile s.product = some (w, h)) :
      OpensStore s (fillStore w h (s.begin 0x1))

/-- SETUP opens a Frame Store, unless there is none and no profile to make one for (45_session_and_host_port R276). -/
theorem opensStore_or_noProfile (s : State) :
    (∃ b, OpensStore s b) ∨ (s.fsValid = false ∧ profile s.product = none) := by
  cases hvalid : s.fsValid with
  | true => exact .inl ⟨_, .kept hvalid⟩
  | false =>
    cases hp : profile s.product with
    | none => exact .inr ⟨rfl, rfl⟩
    | some size => exact .inl ⟨_, .made hvalid hp⟩

theorem OpensStore.running {s b : State} (h : OpensStore s b) : b.waiting = false := by
  cases h <;> rfl

theorem OpensStore.op {s b : State} (h : OpensStore s b) : b.latch.op = 0x1 := by
  cases h <;> rfl

/-- With no profile the checks of ALLOCATE end SETUP (45_session_and_host_port R274, R276). -/
theorem exec_setup_noProfile {s : State} {rest : List Code} (hvalid : s.fsValid = false)
    (hp : profile s.product = none) (hanswers : s.answers = oks 5 rest) :
    exec .setup s = .next (afterRun (latched s 1) setupScript rest s.pstate 1) := by
  have hend : afterLast (pinsSet s rest) = ended (pinsSet s rest) 1 0 :=
    (if_neg (show ¬ s.fsValid = true by simp [hvalid])).trans (if_neg ((profile_eq_none_iff s.product).mp hp))
  rw [exec_setup_pins hanswers, hend, runSequencer_done _ _ (.inl rfl)]
  rfl

/-- The zero fill in SETUP leads to its Reset phase (45_session_and_host_port R274). -/
theorem fillStep_setup {s : State} {w h : Nat} (hp : profile s.product = some (w, h)) (hop : s.latch.op = 0x1) :
    fillStep s = .next (fillStore w h s).enterReset := by
  unfold fillStep
  rw [hp]
  exact if_pos hop

/-- With a Frame Store opened SETUP goes on to the Reset phase, with core steps enough for it. -/
theorem exec_setup_opens {s b : State} {rest : List Code} (h : OpensStore s b) (hanswers : s.answers = oks 5 rest) :
    ∃ fuel, exec .setup s =
      runSequencer (resetScript.length + fuel) (b.enterReset.progressed setupScript rest) := by
  rw [exec_setup_pins hanswers]
  cases h with
  | kept hvalid =>
    have hfuel : 123 + 24 * s.fsHeight.toNat = 7 + (116 + 24 * s.fsHeight.toNat) := by omega
    have hend : afterLast (pinsSet s rest) = (s.begin 0x1).enterReset.progressed setupScript rest := if_pos hvalid
    rw [hend, hfuel]
    exact ⟨_, rfl⟩
  | made hvalid hp =>
    rename_i w h
    have hfuel : 123 + 24 * s.fsHeight.toNat = 7 + (115 + 24 * s.fsHeight.toNat) + 1 := by omega
    have hproduct : s.product = 0 ∨ s.product = 1 := (profile_cases hp).imp And.left And.left
    have hend : afterLast (pinsSet s rest) = (pinsSet s rest).enter .localFill :=
      (if_neg (show ¬ s.fsValid = true by simp [hvalid])).trans (if_pos hproduct)
    have hstep : sequencerStep ((pinsSet s rest).enter .localFill) =
        .next (fillStore w h ((pinsSet s rest).enter .localFill)).enterReset :=
      (sequencerStep_fill rfl rfl).trans (fillStep_setup (s := (pinsSet s rest).enter .localFill) hp rfl)
    rw [hend, hfuel, runSequencer_step _ (by simp) rfl hstep]
    exact ⟨_, rfl⟩

/-! ### The Reset phase -/

/-- The Reset phase of SETUP, behind which the operation has ended with the panel awake (45_session_and_host_port
R274). -/
theorem carries_setupReset {b : State} (hw : b.waiting = false) (hop : b.latch.op = 0x1) :
    Carries b b.enterReset resetScript (ended { b with pstate := .awake } 0 0) := by
  have hclear (made : List Call) (answers : List Code) (k : Nat) :
      clearAt ((b.placed ⟨.reset, 0, 0⟩ .indeterminate).progressed made answers) k := by
    refine clearAt_of_items fun c hc => ?_
    change Item.send c ∈ resetItems at hc
    obtain rfl : c = .swReset := by simpa [resetItems, busyPoll] using hc
    exact ⟨rfl, trivial⟩
  have hend : settle (b.placed ⟨.reset, 0, resetScript.length⟩ .indeterminate) =
      ended { b with pstate := .awake } 0 0 :=
    (settle_end (s := b.placed ⟨.reset, 0, resetScript.length⟩ .indeterminate) nofun hw (Nat.le_refl 7)).trans
      (if_pos hop)
  have hcarries := carries_calls (s := b) (row := 0) (p := .indeterminate) (cs := resetScript) (post := []) hw rfl nofun
    ((phaseCalls_reset rfl).trans (List.append_nil resetScript).symm) fun made answers k _ => hclear made answers k
  rwa [hend] at hcarries

theorem exec_setup_ok {s b : State} {rest : List Code} (h : OpensStore s b) (hanswers : s.answers = oks 12 rest) :
    exec .setup s = .next (afterRun b (setupScript ++ resetScript) rest .awake 0) := by
  obtain ⟨fuel, hexec⟩ := exec_setup_opens h (hanswers.trans (oks_add 5 7 rest))
  rw [hexec]
  exact ((carries_setupReset h.running h.op).ok setupScript rest fuel).trans (runSequencer_done _ _ (.inl rfl))

/-- The first call of the Reset phase that is not answered OK is the last one made (60_exceptions R312). -/
theorem exec_setup_reset_fails {s b : State} {done : List Call} {call : Call} {after : List Call} {a : Code}
    {rest : List Code} (h : OpensStore s b) (hcalls : resetScript = done ++ call :: after) (ha : a ≠ 0)
    (hanswers : s.answers = oks 5 (oks done.length (a :: rest))) :
    exec .setup s = .next (afterRun b (setupScript ++ (done ++ [call])) rest .indeterminate a) := by
  obtain ⟨fuel, hexec⟩ := exec_setup_opens h hanswers
  rw [hexec]
  exact (carries_setupReset h.running h.op).fails setupScript done call after a rest fuel hcalls ha

/-! ### The statements -/

/-- The two profiles and the bytes of their images, as the statements write them (00_scope R8, 20_memory R61). -/
theorem profile_of_size {p : BitVec 2} {w h n : Nat}
    (hsize : (p = 0 ∧ w = 400 ∧ h = 300 ∧ n = 30000) ∨ (p = 1 ∧ w = 122 ∧ h = 250 ∧ n = 7625)) :
    profile p = some (w, h) ∧ n = bytesNeeded w h := by
  obtain ⟨rfl, rfl, rfl, rfl⟩ | ⟨rfl, rfl, rfl, rfl⟩ := hsize <;> decide

/-- SETUP with a Frame Store made: its registers, and its bytes zero with the others as before. -/
theorem exec_setup_made {s : State} {w h n : Nat} {calls : List Call} {rest : List Code} {p : PState} {code : Code}
    (hn : n = bytesNeeded w h)
    (hexec : exec .setup s = .next (afterRun (fillStore w h (s.begin 0x1)) calls rest p code)) :
    ∃ t, exec .setup s = .next t ∧
      t = afterRun
        (latched { s with
                   buf := t.buf, fsWidth := BitVec.ofNat 16 w, fsHeight := BitVec.ofNat 16 h,
                   fsBytelen := BitVec.ofNat 16 n, fsValid := true, fsExternal := false } 1)
        calls rest p code ∧
      (∀ a, a < n → t.readByte a = 0) ∧ ∀ a, n ≤ a → t.readByte a = s.readByte a := by
  subst hn
  exact ⟨_, hexec, rfl, fun a ha => (readByte_fillStore w h (s.begin 0x1) a).trans (if_pos ha),
    fun a ha => (readByte_fillStore w h (s.begin 0x1) a).trans (if_neg (Nat.not_lt.mpr ha))⟩

/-- Settles O51: the five calls, the Frame Store opened, and the Reset phase carried out whole. -/
theorem setupCreatesTheSession : Obligations.SetupCreatesTheSession := by
  refine fun s rest hanswers => ⟨fun hvalid => exec_setup_ok (b := s.begin 0x1) (.kept hvalid) hanswers,
    fun hvalid w h n hsize => ?_⟩
  obtain ⟨hp, hn⟩ := profile_of_size hsize
  exact exec_setup_made hn (exec_setup_ok (.made hvalid hp) hanswers)

/-- Settles O52: products 2 and 3 have no profile. -/
theorem setupWithoutProfileFails : Obligations.SetupWithoutProfileFails := by
  intro s rest hvalid hproduct hanswers
  refine exec_setup_noProfile hvalid ?_ hanswers
  obtain hproduct | hproduct := hproduct <;> rw [hproduct] <;> rfl

/-- Settles O53: the call is one of the first five, or one of the Reset phase behind them. -/
theorem setupStopsAtTheFirstFailure : Obligations.SetupStopsAtTheFirstFailure := by
  intro s done call after a rest hcalls ha hanswers
  have hlength : setupScript.length = 5 := rfl
  obtain ⟨after', hpins⟩ | ⟨done', rfl, hreset⟩ := append_eq_append_cons hcalls
  · have hbefore : done.length < 5 := by
      have hlen := congrArg List.length hpins
      simp only [List.length_append, List.length_cons, hlength] at hlen
      omega
    exact ⟨fun _ => exec_setup_fails hpins ha hanswers, fun hge => absurd hbefore (Nat.not_lt.mpr hge),
      fun hge => absurd hbefore (Nat.not_lt.mpr hge)⟩
  · have hbehind : 5 ≤ (setupScript ++ done').length := by
      rw [List.length_append, hlength]
      exact Nat.le_add_right 5 _
    rw [List.length_append, oks_add] at hanswers
    have hfails {b : State} (hb : OpensStore s b) :
        exec .setup s = .next (afterRun b (setupScript ++ done' ++ [call]) rest .indeterminate a) := by
      rw [List.append_assoc]
      exact exec_setup_reset_fails hb hreset ha hanswers
    refine ⟨fun hlt => absurd hlt (Nat.not_lt.mpr hbehind), fun _ hvalid => hfails (b := s.begin 0x1) (.kept hvalid),
      fun _ hvalid w h n hsize => ?_⟩
    obtain ⟨hp, hn⟩ := profile_of_size hsize
    exact exec_setup_made hn (hfails (.made hvalid hp))

end Sys2Proof.Machine
end

section
/-! PROOFS. A host operation, as far as `exec` takes it, has ended or waits for an answer (45_session_and_host_port
R270, 60_exceptions R307). -/

namespace Sys2Proof.Machine

open Sys2Proof.Claims

/-! ### Ended, waiting, or on the way -/

/-- The operation has ended, with `seq` idle and RESULT the code of the response (45_session_and_host_port R270). -/
def HasEnded (t : State) : Prop := t.seq = Seq.idle ∧ t.waiting = false ∧ ∃ data, t.response = some ⟨t.result, data⟩

/-- The operation has ended, or waits for an answer that is not at hand (60_exceptions R307). -/
def EndsOrWaits (t : State) : Prop :=
  HasEnded t ∨ (t.waiting = true ∧ t.answers = [] ∧ t.seq.phase ≠ .idle)

theorem finish_hasEnded (s : State) (code : Code) (data : DataWord) : HasEnded (s.finish code data) :=
  ⟨rfl, rfl, data, rfl⟩

theorem abort_hasEnded (s : State) (code : Code) : HasEnded (s.abort code) := ⟨rfl, rfl, 0, rfl⟩

/-- What holds at every core step of an operation: it has ended, it waits, or it goes on. -/
def Underway (t : State) : Prop := EndsOrWaits t ∨ (t.waiting = false ∧ t.seq.phase ≠ .idle)

theorem HasEnded.underway {t : State} (h : HasEnded t) : Underway t := .inl (.inl h)

/-- An operation on its way that can go no further has ended or waits. -/
theorem Underway.endsOrWaits {t : State} (h : Underway t) (hstop : t.seq.phase = .idle ∨ t.waiting = true) :
    EndsOrWaits t := by
  obtain h | ⟨hw, hbusy⟩ := h
  · exact h
  · simp [hw, hbusy] at hstop

/-! ### Every core step keeps an operation on its way -/

theorem checkUpdate_underway {s t : State} (hw : s.waiting = false) (h : checkUpdate s = .next t) : Underway t := by
  obtain ⟨code, h'⟩ | h' | ⟨_, h'⟩ := checkUpdate_cases s <;> rw [h'] at h <;> cases h
  · exact (finish_hasEnded s code 0).underway
  · exact .inr ⟨hw, nofun⟩

theorem fillStep_underway {s t : State} (hw : s.waiting = false) (h : fillStep s = .next t) : Underway t := by
  unfold fillStep at h
  split at h
  · cases h
  · split at h <;> cases h
    · exact .inr ⟨hw, nofun⟩
    · exact (finish_hasEnded _ _ _).underway

theorem pixelStep_underway {s t : State} (hw : s.waiting = false) (h : pixelStep s = .next t) : Underway t := by
  have hloop := setPixels_frame .white (pixelList s.fsWidth.toNat s.fsHeight.toNat) s
  unfold pixelStep at h
  split at h
  rename_i code u heq
  rw [heq] at hloop
  split at h
  · refine checkUpdate_underway ?_ h
    rw [show u = _ from hloop]
    exact hw
  · cases h
    exact (abort_hasEnded u code).underway

section Busy

variable {s : State} (hw : s.waiting = false) (hbusy : s.seq.phase ≠ .idle)

include hw hbusy

theorem phaseEnd_underway : Underway (phaseEnd s) := by
  unfold phaseEnd
  cases hp : s.seq.phase
  case idle => exact absurd hp hbusy
  case localFill | localPixels => exact .inr ⟨hw, hbusy⟩
  case localPins =>
    dsimp only
    split
    · exact .inr ⟨hw, nofun⟩
    · exact (abort_hasEnded _ _).underway
    · exact .inr ⟨hw, nofun⟩
  case reset =>
    dsimp only
    split
    · exact (finish_hasEnded _ _ _).underway
    · exact .inr ⟨hw, nofun⟩
  case rows =>
    dsimp only
    split <;> exact .inr ⟨hw, nofun⟩
  case sleep => exact (finish_hasEnded _ _ _).underway
  case init | window | trigger => exact .inr ⟨hw, nofun⟩

theorem settle_underway : Underway (settle s) := by
  unfold settle
  split
  · exact .inr ⟨hw, hbusy⟩
  · exact phaseEnd_underway hw hbusy

/-- A call is answered OK, answered otherwise, or not answered (60_exceptions R306, R307). -/
theorem settle_cap_underway (c : Call) : Underway (settle (cap c s).state) := by
  cases hanswers : s.answers with
  | nil =>
    rw [cap_waits c s hanswers, Progress.state, settle_stopped (.inr rfl)]
    exact .inl (.inr ⟨rfl, hanswers, hbusy⟩)
  | cons a rest =>
    by_cases hok : a = Code.ok
    · subst hok
      rw [cap_ok c s rest hanswers]
      exact settle_underway (s := s.afterCalls [c] rest) hw hbusy
    · rw [cap_fails c s a rest hanswers hok, Progress.state, settle_stopped (.inl rfl)]
      exact (abort_hasEnded _ a).underway

theorem callStep_underway {t : State} (h : callStep s = .next t) : Underway t := by
  obtain ⟨c, _, h'⟩ | h' | ⟨_, _, _, _, h'⟩ | ⟨_, h'⟩ := callStep_cases s <;> rw [h'] at h <;> cases h
  · exact settle_cap_underway hw hbusy c
  · exact (abort_hasEnded s _).underway

theorem sequencerStep_underway {t : State} (h : sequencerStep s = .next t) : Underway t := by
  by_cases hfill : s.seq.phase = .localFill
  · rw [sequencerStep_fill hw hfill] at h
    exact fillStep_underway hw h
  · by_cases hpixels : s.seq.phase = .localPixels
    · rw [sequencerStep_pixels hw hpixels] at h
      exact pixelStep_underway hw h
    · rw [sequencerStep_callStep hw hfill hpixels] at h
      exact callStep_underway hw hbusy h

end Busy

/-- So does a run of core steps. -/
theorem runSequencer_underway {fuel : Nat} {s t : State} (hs : Underway s) (h : runSequencer fuel s = .next t) :
    Underway t := by
  induction fuel generalizing s with
  | zero =>
    cases h
    exact hs
  | succ fuel ih =>
    rw [runSequencer] at h
    split at h
    · cases h
      exact hs
    · rename_i hgoes
      split at h
      · rename_i u hstep
        obtain ⟨hbusy, hw⟩ := not_or.mp hgoes
        exact ih (sequencerStep_underway (by simpa using hw) hbusy hstep) h
      · cases h
      · cases h

/-! ### No operation runs out of core steps -/

/-- A stretch of calls behind which a run comes to an end or a wait comes to one itself, whatever the environment
answers. -/
theorem Carries.stops {s u v : State} {cs : List Call} {fuel : Nat} (h : Carries s u cs v)
    (hv : ∀ made rest, ∃ t : State, (t.seq.phase = .idle ∨ t.waiting = true) ∧
      runSequencer fuel (v.progressed made rest) = .next t)
    (made : List Call) (answers : List Code) :
    ∃ t : State, (t.seq.phase = .idle ∨ t.waiting = true) ∧
      runSequencer (cs.length + fuel) (u.progressed made answers) = .next t := by
  obtain ⟨rest, hanswers, _⟩ | ⟨done, call, after, a, rest, hcalls, ha, hanswers, _⟩ |
      ⟨done, call, after, hcalls, hanswers, _⟩ := runCalls_cases cs (u.progressed made answers)
  · obtain rfl : answers = oks cs.length rest := hanswers
    rw [h.ok]
    exact hv _ rest
  · obtain rfl : answers = oks done.length (a :: rest) := hanswers
    exact ⟨_, .inl rfl, h.fails made done call after a rest fuel hcalls ha⟩
  · obtain rfl : answers = oks done.length [] := hanswers.trans (List.append_nil _).symm
    obtain ⟨t, hwaiting, ht⟩ := h.waits made done call after hcalls
    exact ⟨t, .inr hwaiting, ht fuel⟩

theorem runUpdate_stops {s : State} (h : StartsUpdate s) {fuel : Nat} (hfuel : (possibleCalls s).length + 1 ≤ fuel) :
    ∃ t : State, (t.seq.phase = .idle ∨ t.waiting = true) ∧ runSequencer fuel s.enterReset = .next t := by
  obtain ⟨v, hcarries, hend⟩ := exists_carries_possibleCalls h
  obtain ⟨n, rfl⟩ := Nat.exists_eq_add_of_le hfuel
  have hstops := hcarries.stops (fuel := n + 1) (fun made rest => ⟨_, .inl rfl, hend made rest n⟩) [] s.answers
  rw [← State.enterReset_answers, State.progressed_nil] at hstops
  rwa [show (possibleCalls s).length + 1 + n = (possibleCalls s).length + (n + 1) by omega]

/-- SETUP comes to an end or a wait in its first five calls, at the checks of ALLOCATE, or in its Reset phase. -/
theorem exec_setup_stops (s : State) :
    ∃ t : State, (t.seq.phase = .idle ∨ t.waiting = true) ∧ exec .setup s = .next t := by
  cases hpins : runCalls setupScript (settingUp s) with
  | stop t => exact ⟨t, stopped_of_runCalls hpins, by rw [exec_setup, hpins, goOnEnd]⟩
  | go u =>
    obtain ⟨rest, hanswers, _⟩ := runCalls_go hpins
    have hanswers : s.answers = oks 5 rest := hanswers
    obtain ⟨b, hb⟩ | ⟨hvalid, hp⟩ := opensStore_or_noProfile s
    · obtain ⟨fuel, hexec⟩ := exec_setup_opens hb hanswers
      rw [hexec]
      exact (carries_setupReset hb.running hb.op).stops
        (fun made rest => ⟨_, .inl rfl, runSequencer_done _ _ (.inl rfl)⟩) setupScript rest
    · exact ⟨_, .inl rfl, exec_setup_noProfile hvalid hp hanswers⟩

/-! ### The operations -/

theorem exec_setup_endsOrWaits {s t : State} (h : exec .setup s = .next t) : EndsOrWaits t := by
  obtain ⟨t', hstop, h'⟩ := exec_setup_stops s
  obtain rfl : t' = t := Host.Outcome.next.inj (h'.symm.trans h)
  have hrun : runSequencer s.opFuel (settingUp s) = .next t' := h
  have hstarted : Underway (settingUp s) := .inr ⟨rfl, by simp [settingUp]⟩
  exact (runSequencer_underway hstarted hrun).endsOrWaits hstop

theorem exec_update_endsOrWaits {s t : State} (h : exec .update s = .next t) : EndsOrWaits t := by
  rw [exec_update] at h
  obtain ⟨code, hcheck⟩ | hcheck | ⟨hready, hcheck⟩ := checkUpdate_cases (s.begin 0x6) <;> rw [hcheck] at h
  · rw [runOutcome_finish] at h
    cases h
    exact .inl (finish_hasEnded _ code 0)
  · cases h
  · have hrun : runSequencer s.opFuel (s.begin 0x6).enterReset = .next t := h
    have hstarts : StartsUpdate (s.begin 0x6) := ⟨rfl, hready, (by decide : (0x6 : BitVec 4) ≠ 0x1)⟩
    obtain ⟨t', hstop, h'⟩ := runUpdate_stops hstarts (possibleCalls_length_succ_le (s.begin 0x6))
    obtain rfl : t' = t := Host.Outcome.next.inj (h'.symm.trans hrun)
    have hstarted : Underway (s.begin 0x6).enterReset := .inr ⟨rfl, by simp⟩
    exact (runSequencer_underway hstarted hrun).endsOrWaits hstop

/-- An operation that does what UPDATE does with its own op code in the latch ends or waits as UPDATE does. -/
theorem mapNext_latched_endsOrWaits {s t : State} {op : BitVec 4}
    (h : mapNext (latched · op) (exec .update s) = .next t) : EndsOrWaits t := by
  cases hupdate : exec .update s with
  | next u =>
    rw [hupdate] at h
    cases h
    have hends : EndsOrWaits u := exec_update_endsOrWaits hupdate
    exact hends
  | fault f =>
    rw [hupdate] at h
    cases h
  | refused r =>
    rw [hupdate] at h
    cases h

theorem exec_updateByMode_endsOrWaits {m : FrameType} {s t : State} (h : exec (.updateByMode m) s = .next t) :
    EndsOrWaits t := by
  by_cases hm : m = .alwaysFull
  · subst hm
    rw [exec_updateByMode_full] at h
    exact mapNext_latched_endsOrWaits h
  · rw [exec_updateByMode_other hm] at h
    cases h
    exact .inl (finish_hasEnded s 1 0)

theorem exec_allocate_endsOrWaits {s t : State} (h : exec .allocate s = .next t) : EndsOrWaits t := by
  have hrun : runOutcome (startAllocate s) = .next t := h
  obtain ⟨_, hstart⟩ | ⟨_, _, hstart⟩ | ⟨hvalid, hprofile, _⟩ := startAllocate_cases s
  · rw [hstart, runOutcome_finish] at hrun
    cases hrun
    exact .inl (finish_hasEnded s _ 0)
  · rw [hstart, runOutcome_finish] at hrun
    cases hrun
    exact .inl (finish_hasEnded s _ 0)
  · obtain ⟨⟨width, height⟩, hp⟩ := Option.isSome_iff_exists.mp hprofile
    rw [exec_allocate_profile hvalid hp] at h
    cases h
    exact .inl (finish_hasEnded (latched (fillStore width height s) 3) _ 0)

theorem exec_clear_endsOrWaits {s t : State} (h : exec .clear s = .next t) : EndsOrWaits t := by
  cases hvalid : s.fsValid with
  | false =>
    rw [exec_clear_noStore hvalid] at h
    cases h
    exact .inl (finish_hasEnded s _ 0)
  | true =>
    cases hloop : setPixels .white (pixelList s.fsWidth.toNat s.fsHeight.toNat) (clearing s) with
    | mk code u =>
      by_cases hcode : code = Code.ok
      · subst hcode
        rw [exec_clear_updates hvalid hloop] at h
        exact mapNext_latched_endsOrWaits h
      · rw [exec_clear_fails hvalid hloop hcode] at h
        cases h
        exact .inl (finish_hasEnded (latched { s with buf := u.buf } 8) code 0)

/-- Settles O59: an operation of one internal state change ends in it, and no other runs out of core steps. -/
theorem operationsEndOrWait : Obligations.OperationsEndOrWait := by
  intro i s t hhost h
  by_cases hlong : longOperation i
  · obtain rfl | rfl | rfl | ⟨m, rfl⟩ | rfl := hlong
    · exact exec_setup_endsOrWaits h
    · exact exec_allocate_endsOrWaits h
    · exact exec_update_endsOrWaits h
    · exact exec_updateByMode_endsOrWaits h
    · exact exec_clear_endsOrWaits h
  · obtain ⟨u, code, data, hexec, _⟩ := exec_finishes hhost (firstStep?_eq_none hlong s)
    rw [hexec] at h
    cases h
    exact .inl (finish_hasEnded u code data)

end Sys2Proof.Machine
end

section
/-! PROOFS. Calls that the environment does not answer: where a send waits, and what the answer does when it comes
(60_exceptions R306, R307). -/

namespace Sys2Proof.Machine

open Sys2Proof.Claims

/-! ### A send that waits -/

/-- Settles O38: the script of the send stops in the call without an answer, and the wait there is where `exec` leaves
the command. -/
theorem sendsWaitForAnswers : Obligations.SendsWaitForAnswers := by
  intro c s done call after hwidth hheight hcalls hanswers
  have hstop := runCalls_waits done call after s (hanswers.trans (List.append_nil _))
  rw [← hcalls] at hstop
  rw [exec_panel_of_stop ((PanelCmd.admitted_iff_dimensions c s).mpr ⟨hwidth, hheight⟩) hstop]
  simp [State.afterCalls, State.emit]

/-! ### The answer of the call that is waited for -/

theorem step_waiting {s : State} (hbusy : s.seq.phase ≠ .idle) (hw : s.waiting = true) :
    step s = .next (resumeCall s) :=
  (step_busy hbusy).trans (sequencerStep_waiting hw)

theorem resumeCall_unanswered {s : State} (h : s.answers = []) : resumeCall s = s := by
  rw [resumeCall, h]

theorem resumeCall_ok {s : State} {rest : List Code} (h : s.answers = Code.ok :: rest) :
    resumeCall s = settle (s.atCall (s.seq.k + 1) false s.trace rest) := by
  rw [resumeCall, h]
  rfl

theorem resumeCall_fails {s : State} {a : Code} {rest : List Code} (h : s.answers = a :: rest) (ha : a ≠ Code.ok) :
    resumeCall s = { s with answers := rest, waiting := false }.abort a := by
  rw [resumeCall, h]
  simp only [State.answered, if_neg ha, Progress.state]
  exact settle_stopped (.inl rfl)

/-- What comes behind a phase or row does not depend on `K` (10_state R24). -/
theorem afterLast_atCall {s : State} (hidle : s.seq.phase ≠ .idle) (hfill : s.seq.phase ≠ .localFill)
    (hpixels : s.seq.phase ≠ .localPixels) (k k' : Nat) (w : Bool) (tr : List Event) (l : List Code) :
    afterLast (s.atCall k w tr l) = afterLast (s.atCall k' w tr l) := by
  have hphase (j : Nat) : (s.atCall j w tr l).seq.phase = s.seq.phase := rfl
  unfold afterLast
  rw [hphase, hphase]
  cases hp : s.seq.phase
  case idle => exact absurd hp hidle
  case localFill => exact absurd hp hfill
  case localPixels => exact absurd hp hpixels
  all_goals rfl

/-- The end of a phase or row behind its last call, as the statements write it. -/
theorem phaseEnd_atCall {s : State} (hidle : s.seq.phase ≠ .idle) (hfill : s.seq.phase ≠ .localFill)
    (hpixels : s.seq.phase ≠ .localPixels) (k k' : Nat) (w : Bool) (tr : List Event) (l : List Code) :
    phaseEnd (s.atCall k w tr l) = afterLast (s.atCall k' w tr l) := by
  have hnil : (s.atCall k w tr l).afterCalls [] l = s.atCall k w tr l := by simp [State.afterCalls, State.atCall]
  have hend := phaseEnd_afterCalls (s.atCall k w tr l) [] l hidle hfill hpixels
  rw [hnil] at hend
  calc phaseEnd (s.atCall k w tr l)
      = afterLast (s.atCall k w tr l) := hend.trans (by simp [State.atCall])
    _ = afterLast (s.atCall k' w tr l) := afterLast_atCall hidle hfill hpixels k k' w tr l

/-- A phase with a call is neither IDLE nor one of local work. -/
theorem phase_of_phaseCalls {s : State} (h : phaseCalls s ≠ []) :
    s.seq.phase ≠ .idle ∧ s.seq.phase ≠ .localFill ∧ s.seq.phase ≠ .localPixels :=
  phase_of_phaseItems fun hitems => h (by rw [phaseCalls, hitems, List.flatMap_nil])

theorem resumeCall_ok_inside {s : State} {rest : List Code} (h : s.answers = Code.ok :: rest)
    (hk : s.seq.k + 1 < (phaseCalls s).length) :
    resumeCall s = s.atCall (s.seq.k + 1) false s.trace rest := by
  rw [resumeCall_ok h, settle_inside]
  rwa [phaseCalls_atCall]

theorem resumeCall_ok_last {s : State} {rest : List Code} (h : s.answers = Code.ok :: rest)
    (hk : s.seq.k + 1 = (phaseCalls s).length) :
    resumeCall s = afterLast (s.atCall s.seq.k false s.trace rest) := by
  obtain ⟨hidle, hfill, hpixels⟩ := phase_of_phaseCalls (List.ne_nil_of_length_eq_add_one hk.symm)
  have hend : (phaseCalls (s.atCall (s.seq.k + 1) false s.trace rest)).length ≤ s.seq.k + 1 := by
    rw [phaseCalls_atCall]
    exact Nat.le_of_eq hk.symm
  rw [resumeCall_ok h, settle_end (s := s.atCall (s.seq.k + 1) false s.trace rest) hidle rfl hend]
  exact phaseEnd_atCall hidle hfill hpixels _ _ _ _ _

/-- Settles O9: a core that waits takes the answer at hand, if there is one: OK inside the phase or row, OK at its last
call, or a code that ends the operation. -/
theorem unansweredCallHangs : Obligations.UnansweredCallHangs := by
  refine ⟨fun s hbusy hw ha => ?_, fun s rest hbusy hw ha hk => ?_, fun s rest hbusy hw ha hk => ?_,
    fun s a rest hbusy hw ha hne => ?_⟩ <;> rw [step_waiting hbusy hw]
  · rw [resumeCall_unanswered ha]
  · rw [resumeCall_ok_inside ha hk]
    rfl
  · rw [resumeCall_ok_last ha hk]
    rfl
  · rw [resumeCall_fails ha hne, abort_eq_ended]
    simp [afterRun, ended, pstateAfterAbort]

end Sys2Proof.Machine
end

section
/-! PROOFS. The columns that no row holds (70_reset_and_hazards R350): a row is a function of the pixel codes below
column `8 * W8`. -/

namespace Sys2Proof.Machine

open Sys2Proof.Claims

/-! ### What a row depends on (20_memory R70) -/

theorem packBits_congr (msbFirst : Bool) {bit bit' : Nat → Bool} {n : Nat} (h : ∀ i, i < n → bit i = bit' i) :
    packBits msbFirst bit n = packBits msbFirst bit' n := by
  induction n with
  | zero => rfl
  | succ n ih => rw [packBits, packBits, ih fun i hi => h i (Nat.lt_succ_of_lt hi), h n (Nat.lt_succ_self n)]

/-- The codes in the columns below `8 * W8` determine both rows. -/
theorem planeRow_congr {s t : State} (msbFirst : Bool) (plane : Nat) {r : Nat} (hwidth : t.fsWidth = s.fsWidth)
    (hcodes : ∀ x, x < 8 * (s.fsWidth.toNat / 8) → t.pixelCode x r = s.pixelCode x r) :
    t.planeRow msbFirst plane r = s.planeRow msbFirst plane r := by
  have hw8 : t.w8 = s.w8 := by rw [State.w8, hwidth, State.w8]
  rw [State.planeRow, hw8]
  refine List.map_congr_left fun j hj => packBits_congr msbFirst fun i hi => ?_
  have hj : j < s.fsWidth.toNat / 8 := List.mem_range.mp hj
  rw [hcodes (8 * j + i) (by omega)]

/-! ### What SET_PIXEL leaves of the other columns -/

/-- SET_PIXEL keeps the code of every pixel in another column, whether it is accepted or failed. -/
theorem pixelCode_setPixel_of_ne_column {x x' : Nat} (y y' : Nat) (c : Colour) {s : State}
    (hx' : x' < s.fsWidth.toNat) (hne : x' ≠ x) : (setPixel x y c s).2.pixelCode x' y' = s.pixelCode x' y' := by
  obtain ⟨hfailed, _⟩ | haccepted := setPixel_failed_or_accepted x y c s
  · rw [hfailed]
  · rw [setPixel_accepted haccepted, pixelCode_pixelWritten y' c s haccepted.column hx',
      if_neg fun hsame => hne (congrArg Prod.fst hsame)]

theorem setPixel_fsWidth (x y : Nat) (c : Colour) (s : State) : (setPixel x y c s).2.fsWidth = s.fsWidth := by
  obtain ⟨hfailed, _⟩ | haccepted := setPixel_failed_or_accepted x y c s
  · rw [hfailed]
  · rw [setPixel_accepted haccepted, pixelWritten_fsWidth]

/-- Settles O27: the column of the pixel is none of those that determine a row. -/
theorem lastColumnsAreNeverSent : Obligations.LastColumnsAreNeverSent := by
  intro s t x y c hexec hlast r
  rw [exec_setPixel] at hexec
  cases hexec
  have hcodes : ∀ x', x' < 8 * (s.fsWidth.toNat / 8) →
      (ended (setPixel x.toNat y.toNat c s).2 (setPixel x.toNat y.toNat c s).1 0).pixelCode x' r =
        s.pixelCode x' r := fun x' hx' => by
    rw [pixelCode_ended, pixelCode_setPixel_of_ne_column y.toNat r c (by omega) (by omega)]
  have hwidth := setPixel_fsWidth x.toNat y.toNat c s
  exact ⟨planeRow_congr _ 0 hwidth hcodes, planeRow_congr _ 1 hwidth hcodes⟩

end Sys2Proof.Machine
end
